-- ==== Sys2Proof/Word.lean ====
section
/-! DEFINITION. The word types of the Keccak-f[1600] engine: lane, byte, command word, the 25 lanes. -/

namespace Sys2Proof

/-- A lane: a 64-bit unsigned value (10_state.md R20, R21; `W` of 00_scope.md R8). MLEN and MPTR have the same width
(`LENW` of 00_scope.md R9). -/
abbrev Word := BitVec 64

/-- A byte of STATE, MSG or OUT (20_memory.md R50). -/
abbrev Byte := BitVec 8

/-- A KCMD-1 command word (30_encoding.md R80; `CMDW` of 00_scope.md R9). -/
abbrev Command := BitVec 32

/-- The 1600-bit state: 25 lanes, `L[i]` at place `i = x + 5*y` (10_state.md R20, R21). -/
abbrev Lanes := Vector Word 25

end Sys2Proof
end

