-- ==== Sys2Proof/Syntax.lean ====
section
/-! DEFINITION. The 14 commands of KCMD-1, one constructor per row of the opcode table (30_encoding.md R84). -/

namespace Sys2Proof

/-- A command, with its operand as wide as the field that carries it (30_encoding.md R81): the round index `ir` is the
8-bit field `a`, the output length `L` the 16-bit field `b`. An index of 24 or more is a command too, and faults
BAD_OPERAND when it runs. -/
inductive Instr where
  | init
  | theta
  | rho
  | pi
  | rhopi
  | chi
  | iota (ir : BitVec 8)
  | round (ir : BitVec 8)
  | permute
  | absb
  | absf
  | absorb
  | squeeze (len : BitVec 16)
  | hash
deriving DecidableEq, Repr

end Sys2Proof
end

