-- ==== Sys2Proof/WellFormed.lean ====
section
/-! DEFINITION. Which commands have a legal operand. The field widths are in the types of `Instr`. -/

namespace Sys2Proof

/-- The operand is legal (30_encoding.md R81): a round index below 24; every output length; nothing to check for the
commands without an operand. A command that is not well formed still decodes, and faults BAD_OPERAND when it runs
(60_exceptions.md R173): the encoder and the decoder treat all of `Instr` alike. -/
def Instr.wf : Instr → Bool
  | .iota ir => ir.toNat < 24
  | .round ir => ir.toNat < 24
  | .squeeze _ => true
  | .init => true
  | .theta => true
  | .rho => true
  | .pi => true
  | .rhopi => true
  | .chi => true
  | .permute => true
  | .absb => true
  | .absf => true
  | .absorb => true
  | .hash => true

end Sys2Proof
end

