-- ==== Sys2Proof/Decode.lean ====
section
/-! DEFINITION. KCMD-1: the fields of a command word, the decoder (total on all 2^32 words), the encoder and the
match/mask table (30_encoding.md R80 to R87). -/

namespace Sys2Proof

/-- `op = W[31:24]` (R80, R81). -/
def opField (W : Command) : BitVec 8 := W.extractLsb' 24 8

/-- `a = W[23:16]` (R80, R81). -/
def aField (W : Command) : BitVec 8 := W.extractLsb' 16 8

/-- `b = W[15:0]` (R80, R81). -/
def bField (W : Command) : BitVec 16 := W.extractLsb' 0 16

/-- Why a word is no command; both fault ILLEGAL_CMD (60_exceptions.md R172). -/
inductive DecodeReject where
  /-- `op` is not one of the 14 opcodes (R85). -/
  | unknownOpcode
  /-- a field reserved for this `op` is not 0 (R83). -/
  | reservedField
deriving DecidableEq, Repr

/-- A command without operands: `a` and `b` are reserved (R83). -/
def decodePlain (i : Instr) (a : BitVec 8) (b : BitVec 16) : Except DecodeReject Instr :=
  if a = 0 ∧ b = 0 then .ok i else .error .reservedField

/-- A command with a round index in `a`: `b` is reserved (R83). -/
def decodeIndexed (i : BitVec 8 → Instr) (a : BitVec 8) (b : BitVec 16) : Except DecodeReject Instr :=
  if b = 0 then .ok (i a) else .error .reservedField

/-- A command with a length in `b`: `a` is reserved (R83). -/
def decodeSized (i : BitVec 16 → Instr) (a : BitVec 8) (b : BitVec 16) : Except DecodeReject Instr :=
  if a = 0 then .ok (i b) else .error .reservedField

/-- Lines 2 and 3 of R82 with the opcode map of R84: total, and every word that is no command is rejected by name. -/
def decode (W : Command) : Except DecodeReject Instr :=
  match opField W with
  | 0x01#8 => decodePlain .init (aField W) (bField W)
  | 0x10#8 => decodePlain .theta (aField W) (bField W)
  | 0x11#8 => decodePlain .rho (aField W) (bField W)
  | 0x12#8 => decodePlain .pi (aField W) (bField W)
  | 0x13#8 => decodePlain .rhopi (aField W) (bField W)
  | 0x14#8 => decodePlain .chi (aField W) (bField W)
  | 0x15#8 => decodeIndexed .iota (aField W) (bField W)
  | 0x16#8 => decodeIndexed .round (aField W) (bField W)
  | 0x17#8 => decodePlain .permute (aField W) (bField W)
  | 0x20#8 => decodePlain .absb (aField W) (bField W)
  | 0x21#8 => decodePlain .absf (aField W) (bField W)
  | 0x22#8 => decodePlain .absorb (aField W) (bField W)
  | 0x30#8 => decodeSized .squeeze (aField W) (bField W)
  | 0x40#8 => decodePlain .hash (aField W) (bField W)
  | _ => .error .unknownOpcode

/-- The word `{op, a, b} = op * 2^24 + a * 2^16 + b` (R80). -/
def commandWord (op : BitVec 8) (a : BitVec 8) (b : BitVec 16) : Command :=
  op.setWidth 32 <<< 24 ||| a.setWidth 32 <<< 16 ||| b.setWidth 32

/-- The word of a command (R80, R81, R84). -/
def encode : Instr → Command
  | .init => commandWord 0x01 0 0
  | .theta => commandWord 0x10 0 0
  | .rho => commandWord 0x11 0 0
  | .pi => commandWord 0x12 0 0
  | .rhopi => commandWord 0x13 0 0
  | .chi => commandWord 0x14 0 0
  | .iota ir => commandWord 0x15 ir 0
  | .round ir => commandWord 0x16 ir 0
  | .permute => commandWord 0x17 0 0
  | .absb => commandWord 0x20 0 0
  | .absf => commandWord 0x21 0 0
  | .absorb => commandWord 0x22 0 0
  | .squeeze len => commandWord 0x30 0 len
  | .hash => commandWord 0x40 0 0

/-- One row of the opcode table: `W` is the row's command iff `W &&& mask = val` (R84). -/
structure OpcodeRow where
  mnemonic : String
  val : Command
  mask : Command
deriving DecidableEq, Repr

/-- The rows of R84 (and of opcode_table.json), in the table's order. -/
def opcodeRows : List OpcodeRow :=
  [⟨"INIT", 0x01000000, 0xFFFFFFFF⟩, ⟨"THETA", 0x10000000, 0xFFFFFFFF⟩, ⟨"RHO", 0x11000000, 0xFFFFFFFF⟩,
   ⟨"PI", 0x12000000, 0xFFFFFFFF⟩, ⟨"RHOPI", 0x13000000, 0xFFFFFFFF⟩, ⟨"CHI", 0x14000000, 0xFFFFFFFF⟩,
   ⟨"IOTA", 0x15000000, 0xFF00FFFF⟩, ⟨"ROUND", 0x16000000, 0xFF00FFFF⟩, ⟨"PERMUTE", 0x17000000, 0xFFFFFFFF⟩,
   ⟨"ABSB", 0x20000000, 0xFFFFFFFF⟩, ⟨"ABSF", 0x21000000, 0xFFFFFFFF⟩, ⟨"ABSORB", 0x22000000, 0xFFFFFFFF⟩,
   ⟨"SQUEEZE", 0x30000000, 0xFFFF0000⟩, ⟨"HASH", 0x40000000, 0xFFFFFFFF⟩]

/-- The table row of a command. -/
def Instr.mnemonic : Instr → String
  | .init => "INIT"
  | .theta => "THETA"
  | .rho => "RHO"
  | .pi => "PI"
  | .rhopi => "RHOPI"
  | .chi => "CHI"
  | .iota _ => "IOTA"
  | .round _ => "ROUND"
  | .permute => "PERMUTE"
  | .absb => "ABSB"
  | .absf => "ABSF"
  | .absorb => "ABSORB"
  | .squeeze _ => "SQUEEZE"
  | .hash => "HASH"

/-- The word matches the row (R84). -/
def OpcodeRow.fits (r : OpcodeRow) (W : Command) : Bool := W &&& r.mask == r.val

/-- The command word of a table entry: its low `nbits` bits are `w`, every bit above is 0. -/
def tableWord (nbits w : Nat) : Command := BitVec.ofNat 32 (w % 2 ^ nbits)

/-- The instruction the decoder reads from an instruction whose bits are `w`. The spec defines commands on the 32-bit
value, not on bytes (30_encoding.md R90), so no byte order enters. -/
def decodeTableWord (nbits w : Nat) : Option Instr :=
  match decode (tableWord nbits w) with
  | .ok i => some i
  | .error _ => none

end Sys2Proof
end

