-- ==== Sys2Proof/Config.lean ====
section
/-! DEFINITION. What is fixed for this hardware (00_scope.md R8, R9), and the free values: constants with no body, for
the bytes the spec gives no value. The platform's own choices, `MsgBacked` and `OutBacked`, are in State (log 3). -/

namespace Sys2Proof

/-- `R`, the rate in bytes: the first 136 bytes of the state are the rate window (00_scope.md R8). -/
def Config.rateBytes : Nat := 136

/-- `SUFFIX`, the domain-separation suffix of original Keccak, hardwired (00_scope.md R2, R8). -/
def Config.suffix : Byte := 0x01

/-- `PADBIT`, XORed into state byte `R-1` by padding (00_scope.md R8). -/
def Config.padBit : Byte := 0x80

/-- `OUTLEN`, the digest length of HASH in bytes (00_scope.md R8). -/
def Config.digestBytes : Nat := 32

/-- `LFSR_SEED`, the seed of the round-constant generator (00_scope.md R8). -/
def Config.lfsrSeed : Byte := 0x01

/-- `LFSR_POLY`, XORed in when the top bit of the generator byte was set (00_scope.md R8). -/
def Config.lfsrPoly : Byte := 0x71

/-- MSG has the addresses 0 .. 2^64-1 (20_memory.md R50). -/
def Config.msgSpace : Nat := 2 ^ 64

/-- OUT has the addresses 0 .. 65534 (20_memory.md R50). -/
def Config.outSpace : Nat := 65535

/-- FREE VALUE (log 4). The byte at a backed MSG address the host has never written: the spec says what a read returns
only for written bytes (20_memory.md R52). It depends on the address alone, because MSG reads are idempotent (R56). -/
opaque Config.unwrittenMsgByte : Nat → Byte

/-- FREE VALUE (log 5). What the host reads at an OUT address whose byte has no defined value (20_memory.md R53, R58;
93_implementation_defined.md U6, U8): the first argument is a counter of State, a new number at each such read. -/
opaque Config.unspecifiedOutByte : Nat → Nat → Byte

end Sys2Proof
end

