-- ==== Sys2Proof/Machine/State.lean ====
section
/-! DEFINITION. The state of the engine, of the two host memories it reaches and of the host's pending operations;
the reasons a step can stop; the state after reset. -/

namespace Sys2Proof.Machine

/-- `CR.STATUS.PHASE` (10_state.md R29, R38). The value 3 of the 2-bit field is never produced (U5; log 11). -/
inductive Phase where
  /-- 0: fresh or absorbing -/
  | absorb
  /-- 1: padded and permuted, ready to squeeze -/
  | final
  /-- 2: output produced -/
  | done
deriving DecidableEq, Repr

/-- `CR.STATUS.CAUSE` (10_state.md R29, 60_exceptions.md R171). The values 7 to 15 are never produced (U5;
log 11). -/
inductive Cause where
  /-- 0: no fault recorded -/
  | none
  /-- 1 ILLEGAL_CMD (R172) -/
  | illegalCmd
  /-- 2 BAD_OPERAND (R173) -/
  | badOperand
  /-- 3 BAD_PHASE (R174) -/
  | badPhase
  /-- 4 BAD_LENGTH (R175) -/
  | badLength
  /-- 5 MSG_ACCESS (R177) -/
  | msgAccess
  /-- 6 OUT_ACCESS (R177) -/
  | outAccess
deriving DecidableEq, Repr

/-- A byte memory: (address, byte) pairs in one canonical form, addresses strictly rising (`Memory.wf`). An unlisted
address has no value here: what a read of it gives is said where it is read (logs 4 and 5). -/
abbrev Memory := List Host.Cell

/-- The canonical form. No entry can equal what an unlisted address holds, since that is no value. -/
abbrev Memory.wf (m : Memory) : Prop := m.Pairwise fun c d => c.1 < d.1

/-- A run of `size` addresses from `base`. -/
structure Region where
  base : Nat
  size : Nat
deriving DecidableEq, Repr

/-- The open parameters `MSGMEM` and `OUTMEM` (00_scope.md R9): which addresses the platform backs, as regions. Any set
of addresses of a finite space is such a list, and no step changes it, so a claim about every state is a claim about
every `MsgBacked` and every `OutBacked` (log 3). -/
structure Platform where
  msgRegions : List Region
  outRegions : List Region
deriving DecidableEq, Repr

/-- The operations through which the host acts on the engine (20_memory.md R58). Indices are natural numbers as the host
writes them; a lane index above 24 and a register number above 3 are refused (D25; log 9). -/
inductive HostOp where
  /-- `HostReset` -/
  | reset
  /-- `HostIssue(W)` -/
  | issue (W : Command)
  /-- `HostRead(L, i)` -/
  | readLane (i : Nat)
  /-- `HostWrite(L, i, v)` -/
  | writeLane (i : Nat) (v : Word)
  /-- `HostRead(CR, n)` -/
  | readCr (n : Nat)
  /-- `HostWrite(CR, n, v)` -/
  | writeCr (n : Nat) (v : Word)
  /-- `HostMsgWrite(a, v)` -/
  | writeMsg (a : Word) (v : Byte)
  /-- `HostOutRead(a)` -/
  | readOut (a : Nat)
deriving DecidableEq, Repr

/-- The whole machine. The first seven fields are the engine (10_state.md, "Summary of all state"); `msg` and `out` are
the host's memories the engine reaches (20_memory.md R50); `platform` is the open parameters; the last three fields are
the model's own. -/
structure State where
  /-- `L[0..24]` (R20, R21) -/
  lanes : Lanes
  /-- `CR.STATUS.PHASE` (R29, R38) -/
  phase : Phase
  /-- `CR.STATUS.ERR`, sticky (R29) -/
  err : Bool
  /-- `CR.STATUS.CAUSE`, sticky (R29) -/
  cause : Cause
  /-- `CR.MLEN` (R30) -/
  mlen : Word
  /-- `CR.MPTR` (R31) -/
  mptr : Word
  /-- `CR.OLEN`, its 16 significant bits (R33) -/
  olen : BitVec 16
  /-- MSG, the message memory (R52) -/
  msg : Memory
  /-- OUT, the output memory (R53); an unlisted byte has no defined value -/
  out : Memory
  /-- `MSGMEM` and `OUTMEM` (R9) -/
  platform : Platform
  /-- the model's own: the host's operations still to come, first one first (R59 a; log 1) -/
  host : List HostOp
  /-- the model's own: the value the last host read returned (R58; log 2) -/
  hostData : Word
  /-- the model's own: how many free values reads of OUT have drawn (log 5) -/
  freeTick : Nat
deriving DecidableEq, Repr

/-- Where the machine stops because an address does not exist. No command raises it. -/
inductive Fault where
  /-- Raised by HostOutRead at an address above 65534: OUT has none (20_memory.md R50; log 9). Safe: the
  model stops. -/
  | outAddressOutsideSpace
deriving DecidableEq, Repr

/-- What the model has no step for. -/
inductive Refusal where
  /-- Raised by `exec` for a command without a meaning; no arm does. Safe: the model stops. -/
  | notModelled (mnemonic : String)
  /-- Raised by HostRead and HostWrite of a lane index above 24: "not an operation of the model" (U9, D25). Safe. -/
  | noSuchLane
  /-- Raised by HostRead and HostWrite of a control register number above 3 (R28, U9, D25). Safe. -/
  | noSuchControlRegister
  /-- Raised by HostMsgWrite to an address the platform does not back: the operation "needs `MsgBacked(a)`"
  (20_memory.md R58). Safe. -/
  | msgAddressNotBacked
deriving DecidableEq, Repr

/-- The three outcomes of a command or of a step. -/
abbrev Result := Host.Outcome State Fault Refusal

/-- A platform that backs every address of both spaces (log 3). -/
def Platform.full : Platform :=
  { msgRegions := [⟨0, Config.msgSpace⟩], outRegions := [⟨0, Config.outSpace⟩] }

/-- The machine right after reset: the engine as 10_state.md R36 says; nothing yet written to MSG or OUT; every address
backed (log 3); no host operation pending (log 1). -/
def State.reset : State :=
  { lanes := Vector.replicate 25 0
    phase := .absorb
    err := false
    cause := .none
    mlen := 0
    mptr := 0
    olen := 0
    msg := []
    out := []
    platform := .full
    host := []
    hostData := 0
    freeTick := 0 }

end Sys2Proof.Machine
end

