-- ==== Sys2Proof/Machine/Ops.lean ====
section
/-! DEFINITION. The named operations: the two views of the 1600-bit state, the byte memories, the two ports to MSG and
OUT, the named updates of State, taking a fault, and the reset that is the only return from one. -/

namespace Sys2Proof

/-! ### The lanes and the byte view -/

/-- `A[x][y]` (10_state.md R21: `L[x + 5*y]`). -/
def Lanes.xy (A : Lanes) (x y : Fin 5) : Word := A[x.val + 5 * y.val]

/-- The lanes whose lane at (x, y) is `f x y` (R21: `L[i] = A[i mod 5][i div 5]`). -/
def Lanes.ofXY (f : Fin 5 → Fin 5 → Word) : Lanes :=
  Vector.ofFn fun i => f ⟨i.val % 5, Nat.mod_lt _ (by decide)⟩ ⟨i.val / 5, by omega⟩

/-- `L[i]` (R21), for `i` below 25. -/
def Lanes.reg (A : Lanes) (i : Nat) : Word := A[i]?.getD 0

/-- `L[i] <- v` (R21), for `i` below 25. -/
def Lanes.setReg (A : Lanes) (i : Nat) (v : Word) : Lanes := A.setIfInBounds i v

/-- 25 zero lanes ("zero-initialized at creation", R20). -/
def Lanes.zero : Lanes := Vector.replicate 25 0

/-- `S[k]`, for `k` below 200: bits `8*(k mod 8)+7 .. 8*(k mod 8)` of `L[k div 8]` (10_state.md R23). -/
def Lanes.byte (A : Lanes) (k : Nat) : Byte := (A.reg (k / 8)).extractLsb' (8 * (k % 8)) 8

/-- `S[k] <- v`: replaces eight bits of `L[k div 8]` and leaves the other 56 (10_state.md R23). -/
def Lanes.setByte (A : Lanes) (k : Nat) (v : Byte) : Lanes :=
  let place := 8 * (k % 8)
  A.setReg (k / 8) ((A.reg (k / 8) &&& ~~~ ((0xFF : Word) <<< place)) ||| (v.setWidth 64 <<< place))

/-- `S[k] <- S[k] ^ v`, the only way the sponge writes a byte of the state (41_sponge.md R132, R134). -/
def Lanes.xorByte (A : Lanes) (k : Nat) (v : Byte) : Lanes := A.setByte k (A.byte k ^^^ v)

/-- `S[0] .. S[n-1]`, the front of the state (41_sponge.md R138). -/
def Lanes.front (A : Lanes) (n : Nat) : List Byte := (List.range n).map A.byte

/-- `ROL_64(a, n)` for `n` below 64; the amount 0 is the identity by definition (00_scope.md R11, 40_permutation.md
R116 c). -/
def rol64 (a : Word) (n : Nat) : Word := if n = 0 then a else (a <<< n) ||| (a >>> (64 - n))

/-- A coordinate: `n mod 5` (00_scope.md R11, 40_permutation.md R116 d; D24). -/
def coord (n : Nat) : Fin 5 := ⟨n % 5, Nat.mod_lt _ (by decide)⟩

end Sys2Proof

namespace Sys2Proof.Machine

/-! ### Byte memories -/

/-- The byte listed at `a`, if there is one. -/
def Memory.read? : Memory → Nat → Option Byte
  | [], _ => none
  | (k, v) :: m, a => if k = a then some v else Memory.read? m a

/-- The entries of a run of bytes from address `a`. -/
def Memory.run : Nat → List Byte → Memory
  | _, [] => []
  | a, b :: bs => (a, b) :: Memory.run (a + 1) bs

/-- The bytes `bs` at `a .. a + bs.length - 1`; every other address as before. -/
def Memory.writeRun (m : Memory) (a : Nat) (bs : List Byte) : Memory :=
  m.filter (fun c => c.1 < a) ++ Memory.run a bs ++ m.filter (fun c => a + bs.length ≤ c.1)

/-- No value at `a .. a + n - 1`; every other address as before. -/
def Memory.eraseRun (m : Memory) (a n : Nat) : Memory :=
  m.filter fun c => c.1 < a || a + n ≤ c.1

/-! ### The platform's predicates -/

/-- The region holds the address. -/
def Region.holds (r : Region) (a : Nat) : Bool := r.base ≤ a && a < r.base + r.size

/-- `MsgBacked(a)` (20_memory.md R52): an address of MSG that the platform backs. -/
def State.msgBacked (s : State) (a : Nat) : Bool :=
  a < Config.msgSpace && s.platform.msgRegions.any fun r => r.holds a

/-- `OutBacked(a)` (20_memory.md R53): an address of OUT that the platform backs. -/
def State.outBacked (s : State) (a : Nat) : Bool :=
  a < Config.outSpace && s.platform.outRegions.any fun r => r.holds a

/-! ### Named updates of State, one per field (their projections are in Laws/State.lean) -/

def State.setLanes (s : State) (A : Lanes) : State := { s with lanes := A }
def State.setPhase (s : State) (p : Phase) : State := { s with phase := p }
def State.setFault (s : State) (e : Bool) (c : Cause) : State := { s with err := e, cause := c }
def State.setMlen (s : State) (v : Word) : State := { s with mlen := v }
def State.setMptr (s : State) (v : Word) : State := { s with mptr := v }
def State.setOlen (s : State) (v : BitVec 16) : State := { s with olen := v }
def State.setMsg (s : State) (m : Memory) : State := { s with msg := m }
def State.setOut (s : State) (m : Memory) : State := { s with out := m }
def State.setHost (s : State) (ops : List HostOp) : State := { s with host := ops }
def State.setHostData (s : State) (v : Word) : State := { s with hostData := v }
def State.setFreeTick (s : State) (n : Nat) : State := { s with freeTick := n }

/-! ### The ports: MSG is read, OUT is written, a byte at a time (20_memory.md R52, R53, R56) -/

/-- The byte at a backed MSG address: what the host last wrote there (20_memory.md R52); where it never wrote, a free
value (log 4). -/
def State.msgByte (s : State) (a : Nat) : Byte := (s.msg.read? a).getD (Config.unwrittenMsgByte a)

/-- The bytes at MSG addresses `a .. a + n - 1`, each as `msgByte` gives it. -/
def State.msgBytes (s : State) (a n : Nat) : List Byte := (List.range n).map fun i => s.msgByte (a + i)

/-- `MemRead(MSG, a + i, 1)` for `i` in 0 .. n-1: the bytes, or a refusal if one of them is not backed (R52). The order
of the reads cannot matter (20_memory.md R66). -/
def State.readMsg (s : State) (a n : Nat) : Option (List Byte) :=
  if (List.range n).all (fun i => s.msgBacked (a + i)) then some (s.msgBytes a n) else none

/-- `MemWrite(OUT, j, 1, bs[j])` for `j` in 0 .. bs.length-1: the state with those bytes of OUT written and no other, or
a refusal if one of them is not backed (R53). -/
def State.writeOut (s : State) (bs : List Byte) : Option State :=
  if (List.range bs.length).all s.outBacked then some (s.setOut (s.out.writeRun 0 bs)) else none

/-- OUT after a refused write of `n` bytes: the bytes at `0 .. n-1` are unspecified (60_exceptions.md R177, U6), so they
have no value any more (log 8). -/
def State.spoilOut (s : State) (n : Nat) : State := s.setOut (s.out.eraseRun 0 n)

/-! ### Faults -/

/-- `raise Fault(c)` (60_exceptions.md R176): ERR and CAUSE, and nothing else. The machine goes on. -/
def raise (c : Cause) (s : State) : Result := .next (s.setFault true c)

/-- The first line of R82: a command is refused while a fault is recorded, and then nothing changes (60_exceptions.md
R179); otherwise it does `k`. -/
def accept (s : State) (k : Result) : Result := if s.err then .next s else k

/-- `HostReset` (70_reset_and_hazards.md R200), the only return from a fault (60_exceptions.md R180): every piece of
engine state at its reset value (10_state.md R36); MSG and OUT untouched, and with them what is not the engine's. -/
def hostReset (s : State) : State :=
  { s with lanes := Lanes.zero, phase := .absorb, err := false, cause := .none, mlen := 0, mptr := 0, olen := 0 }

end Sys2Proof.Machine
end

