-- ==== Sys2Proof/Machine/Operands.lean ====
section
/-! DEFINITION. The operands of the commands (30_encoding.md R81): the round index of IOTA and ROUND, and the count of
unabsorbed message bytes the absorb commands work on. The length of SQUEEZE is the field itself. -/

namespace Sys2Proof.Machine

/-- The round index `ir = a`, legal when `0 <= ir <= 23` (30_encoding.md R81); none stands for BAD_OPERAND
(60_exceptions.md R173). -/
def roundIndex? (ir : BitVec 8) : Option (Fin 24) := if h : ir.toNat < 24 then some ⟨ir.toNat, h⟩ else none

/-- `CR.MLEN - CR.MPTR`, the unabsorbed bytes; only meaningful when MLEN >= MPTR, which every absorb command checks
first (41_sponge.md R133, R135, R136). -/
def State.remaining (s : State) : Nat := s.mlen.toNat - s.mptr.toNat

/-- `CR.MLEN < CR.MPTR`, the BAD_LENGTH condition the absorb commands share (60_exceptions.md R175). -/
def State.overrun (s : State) : Bool := s.mlen.toNat < s.mptr.toNat

end Sys2Proof.Machine
end

