-- ==== Sys2Proof/Machine/Tables.lean ====
section
/-! DEFINITION. The three read-only tables RC, ROT, DST (10_state.md R26) and the rules that generate them: the LFSR
(40_permutation.md R109) and the orbit of the running formulation (R107). The engine uses the tables. -/

namespace Sys2Proof

/-- The table `RC` in the eight lines in which 40_permutation.md R110 prints it: line `k` holds `RC[k]`, `RC[k+8]` and
`RC[k+16]`. -/
def rcLines : Vector (Word × Word × Word) 8 :=
  ⟨#[(0x0000000000000001, 0x000000000000008A, 0x8000000000008002),
     (0x0000000000008082, 0x0000000000000088, 0x8000000000000080),
     (0x800000000000808A, 0x0000000080008009, 0x000000000000800A),
     (0x8000000080008000, 0x000000008000000A, 0x800000008000000A),
     (0x000000000000808B, 0x000000008000808B, 0x8000000080008081),
     (0x0000000080000001, 0x800000000000008B, 0x8000000000008080),
     (0x8000000080008081, 0x8000000000008089, 0x0000000080000001),
     (0x8000000000008009, 0x8000000000008003, 0x8000000080008008)], rfl⟩

/-- `RC[ir]`: line `ir mod 8`, the column by `ir div 8` (40_permutation.md R110). -/
def rc (ir : Fin 24) : Word :=
  let line := rcLines[ir.val % 8]
  if ir.val < 8 then line.1 else if ir.val < 16 then line.2.1 else line.2.2

/-- `ROT` by lane index `i = x + 5*y` (40_permutation.md R103). -/
def rotTable : Vector Nat 25 :=
  ⟨#[0, 1, 62, 28, 27, 36, 44, 6, 55, 20, 3, 10, 43, 25, 39, 41, 45, 15, 21, 8, 18, 2, 61, 56, 14], rfl⟩

/-- `ROT[x][y]`. -/
def rot (x y : Fin 5) : Nat := rotTable[x.val + 5 * y.val]

/-- `DST[x][y] = (y, (2*x + 3*y) mod 5)` (40_permutation.md R105). -/
def dst (x y : Fin 5) : Fin 5 × Fin 5 := (y, coord (2 * x.val + 3 * y.val))

/-- Where the lane that arrives at (X, Y) comes from: `((X + 3*Y) mod 5, X)` (40_permutation.md R105). -/
def src (X Y : Fin 5) : Fin 5 × Fin 5 := (coord (X.val + 3 * Y.val), X)

/-! ### What generates the tables (definitions of their contents, not engine state: 10_state.md R35) -/

/-- `lfsr_step` (40_permutation.md R109): bit 7 is tested before the shift, and the bit shifted out is dropped. -/
def lfsrStep (v : Byte) : Byte := (v <<< 1) ^^^ (if v.getLsbD 7 then Config.lfsrPoly else 0)

/-- `v` after `n` steps from the seed; it is not reset between rounds (R109). -/
def lfsrValue : Nat → Byte
  | 0 => Config.lfsrSeed
  | n + 1 => lfsrStep (lfsrValue n)

/-- The constant of round `i`: bit `2^j - 1` is set iff bit 1 of the generator is 1 after step `j` of the round's seven
(R109). -/
def rcGenerated (i : Nat) : Word :=
  (List.range 7).foldl
    (fun c j => if (lfsrValue (7 * i + j + 1)).getLsbD 1 then c ||| (1 <<< (2 ^ j - 1)) else c) 0

/-- The orbit's position `t`: (1, 0) first, then the map `DST` again and again (40_permutation.md R107). -/
def orbit : Nat → Fin 5 × Fin 5
  | 0 => (1, 0)
  | t + 1 => dst (orbit t).1 (orbit t).2

/-- The running `offset` at step `t`, after `offset = offset + t + 1` (R107): 1, 3, 6, 10, ..., 300. -/
def orbitOffset : Nat → Nat
  | 0 => 1
  | t + 1 => orbitOffset t + (t + 2)

end Sys2Proof
end

