-- ==== Sys2Proof/Machine/Permutation.lean ====
section
/-! DEFINITION. The step mappings, the round and Keccak-f[1600], each a function from 25 lanes to 25 lanes that reads
all of its input before any lane is written (40_permutation.md R101 to R117). -/

namespace Sys2Proof

/-- The five column parities `C[x]` (R101). -/
def thetaC (A : Lanes) : Vector Word 5 :=
  Vector.ofFn fun x => A.xy x 0 ^^^ A.xy x 1 ^^^ A.xy x 2 ^^^ A.xy x 3 ^^^ A.xy x 4

/-- `D[x] = C[(x-1) mod 5] ^ ROL64(C[(x+1) mod 5], 1)`, where `(x-1) mod 5` is `(x+4) mod 5` (R101, D24). -/
def thetaD (A : Lanes) : Vector Word 5 :=
  Vector.ofFn fun x => (thetaC A)[(coord (x.val + 4)).val] ^^^ rol64 (thetaC A)[(coord (x.val + 1)).val] 1

/-- Theta (R101). -/
def theta (A : Lanes) : Lanes := Lanes.ofXY fun x y => A.xy x y ^^^ (thetaD A)[x.val]

/-- Rho: every lane turns left in place by its table amount (R103). -/
def rho (A : Lanes) : Lanes := Lanes.ofXY fun x y => rol64 (A.xy x y) (rot x y)

/-- Pi: the lane at (x, y) moves to `DST[x][y]`; written from the destination side (R105). -/
def pi (A : Lanes) : Lanes := Lanes.ofXY fun X Y => A.xy (src X Y).1 (src X Y).2

/-- Rho then Pi, the document's fused step (R108). -/
def rhopi (A : Lanes) : Lanes := pi (rho A)

/-- The running formulation of the fused step (R107): step `t` reads the input lane at the orbit's position `t`, turns
it by `offset mod 64` and stores it at the next position; lane (0, 0) is untouched. The engine uses `rhopi`. -/
def rhopiRunning (A : Lanes) : Lanes :=
  (List.range 24).foldl
    (fun B t => B.setReg ((orbit (t + 1)).1.val + 5 * (orbit (t + 1)).2.val)
      (rol64 (A.xy (orbit t).1 (orbit t).2) (orbitOffset t % 64))) A

/-- Chi (R111): all three operands are lanes of the input state. -/
def chi (A : Lanes) : Lanes :=
  Lanes.ofXY fun x y => A.xy x y ^^^ (~~~ A.xy (coord (x.val + 1)) y &&& A.xy (coord (x.val + 2)) y)

/-- Iota with the constant of round `ir` (R113). -/
def iota (A : Lanes) (ir : Fin 24) : Lanes := A.setReg 0 (A.xy 0 0 ^^^ rc ir)

/-- One round (R114). -/
def keccakRound (A : Lanes) (ir : Fin 24) : Lanes := iota (chi (rhopi (theta A))) ir

/-- Keccak-f[1600]: rounds 0 to 23 in that order (R115). -/
@[irreducible] def permute (A : Lanes) : Lanes := (List.finRange 24).foldl keccakRound A

end Sys2Proof
end

