-- ==== Sys2Proof/Machine/Datapath.lean ====
section
/-! DEFINITION. The eight datapath commands (40_permutation.md): they read and write lanes only, in every phase (R100). -/

namespace Sys2Proof.Machine

/-- A datapath command without an operand: `A <- f(A)`, unless a fault is recorded (R100). -/
def mapLanes (f : Lanes → Lanes) (s : State) : Result := accept s (.next (s.setLanes (f s.lanes)))

/-- A datapath command with a round index: BAD_OPERAND if `ir >= 24`, else `A <- f(A, ir)` (R113, R114). -/
def mapLanesIndexed (f : Lanes → Fin 24 → Lanes) (ir : BitVec 8) (s : State) : Result :=
  accept s <|
    match roundIndex? ir with
    | none => raise .badOperand s
    | some r => .next (s.setLanes (f s.lanes r))

/-- THETA (R102). -/
def execTheta (s : State) : Result := mapLanes theta s

/-- RHO (R104). -/
def execRho (s : State) : Result := mapLanes rho s

/-- PI (R106). -/
def execPi (s : State) : Result := mapLanes pi s

/-- RHOPI (R108). -/
def execRhopi (s : State) : Result := mapLanes rhopi s

/-- CHI (R112). -/
def execChi (s : State) : Result := mapLanes chi s

/-- IOTA ir (R113). -/
def execIota (ir : BitVec 8) (s : State) : Result := mapLanesIndexed iota ir s

/-- ROUND ir (R114). -/
def execRound (ir : BitVec 8) (s : State) : Result := mapLanesIndexed keccakRound ir s

/-- PERMUTE (R115). -/
def execPermute (s : State) : Result := mapLanes permute s

end Sys2Proof.Machine
end

