-- ==== Sys2Proof/Machine/Sponge.lean ====
section
/-! DEFINITION. The sponge as functions of the lanes: XOR-in, padding, absorb, squeeze (41_sponge.md R132, R134, R137,
R138). -/

namespace Sys2Proof

/-- `S[k+i] <- S[k+i] ^ d[i]` for every byte `d[i]`. -/
def xorinFrom (k : Nat) : Lanes → List Byte → Lanes
  | A, [] => A
  | A, b :: bs => xorinFrom (k + 1) (A.xorByte k b) bs

/-- `xorin(A, d, n)` with `n` the length of `d`, at most 136 (R132). -/
def xorin (A : Lanes) (d : List Byte) : Lanes := xorinFrom 0 A d

/-- `pad(A, q)` for any suffix byte (R134): steps a, b, c, d; branch b is kept although it is never taken with the
suffix `0x01` (90_conflicts.md C7). -/
def padWith (suffix : Byte) (A : Lanes) (q : Nat) : Lanes :=
  let A := A.xorByte q suffix
  let A := if q = Config.rateBytes - 1 ∧ suffix.getLsbD 7 then permute A else A
  permute (A.xorByte (Config.rateBytes - 1) Config.padBit)

/-- `pad(A, q)` of this engine: the suffix is the hardwired `0x01` (R134). -/
def pad (A : Lanes) (q : Nat) : Lanes := padWith Config.suffix A q

/-- The absorb loop for `n` full blocks (R136, R137): `A <- permute(xorin(A, block))`, block after block. -/
def absorbBlocks : Nat → Lanes → List Byte → Lanes
  | 0, A, _ => A
  | n + 1, A, m => absorbBlocks n (permute (xorin A (m.take Config.rateBytes))) (m.drop Config.rateBytes)

/-- Absorb all of `m` from the lanes `A` (R136): the full blocks, then the remainder and the padding. -/
def absorbFrom (A : Lanes) (m : List Byte) : Lanes :=
  let n := m.length / Config.rateBytes
  let rest := m.drop (n * Config.rateBytes)
  pad (xorin (absorbBlocks n A m) rest) rest.length

/-- `absorb(M)` (R137): from 25 zero lanes. -/
def absorb (m : List Byte) : Lanes := absorbFrom Lanes.zero m

/-- The squeeze loop (R138), for at most `fuel` output blocks: copy `min(rem, 136)` bytes from the front of the state;
if more remain to produce, permute and go on. -/
def squeezeLoop : Nat → Lanes → Nat → List Byte × Lanes
  | 0, A, _ => ([], A)
  | fuel + 1, A, rem =>
    let n := min rem Config.rateBytes
    if rem - n = 0 then (A.front n, A)
    else
      let r := squeezeLoop fuel (permute A) (rem - n)
      (A.front n ++ r.1, r.2)

/-- `squeeze(A, L)` (R138): `L` output bytes and the new lanes. `L div 136 + 1` blocks are enough. -/
def squeeze (A : Lanes) (len : Nat) : List Byte × Lanes := squeezeLoop (len / Config.rateBytes + 1) A len

end Sys2Proof
end

