-- ==== Sys2Proof/Machine/SpongeControl.lean ====
section
/-! DEFINITION. The six sponge commands (41_sponge.md). Each makes its checks in the order phase, length, memory access
(R130 b, 60_exceptions.md R178) and changes nothing unless all of them pass. -/

namespace Sys2Proof.Machine

/-- The lanes `A`, all of the message consumed, PHASE FINAL: how ABSF and ABSORB end (R135, R136). -/
def State.finalize (s : State) (A : Lanes) : State := ((s.setLanes A).setMptr s.mlen).setPhase .final

/-- Store the bytes and the lanes of `r`, set OLEN and PHASE DONE, from the state `s`; if a byte of OUT is not backed,
OUT_ACCESS, with the state as `s0` had it and the bytes of OUT it was to write unspecified (R140, R141, 60_exceptions.md
R177). -/
def deliver (s0 s : State) (r : List Byte × Lanes) (len : BitVec 16) : Result :=
  match s.writeOut r.1 with
  | none => raise .outAccess (s0.spoilOut r.1.length)
  | some t => .next (((t.setLanes r.2).setOlen len).setPhase .done)

/-- INIT (R131). -/
def execInit (s : State) : Result :=
  accept s (.next ((((s.setLanes Lanes.zero).setPhase .absorb).setMptr 0).setOlen 0))

/-- ABSB (R133): one full block. -/
def execAbsb (s : State) : Result :=
  accept s <|
    if s.phase ≠ .absorb then raise .badPhase s
    else if s.overrun ∨ s.remaining < Config.rateBytes then raise .badLength s
    else
      match s.readMsg s.mptr.toNat Config.rateBytes with
      | none => raise .msgAccess s
      | some d => .next ((s.setLanes (permute (xorin s.lanes d))).setMptr (s.mptr + 136))

/-- ABSF (R135): the remainder, the padding, PHASE FINAL. -/
def execAbsf (s : State) : Result :=
  accept s <|
    if s.phase ≠ .absorb then raise .badPhase s
    else if s.overrun ∨ s.remaining ≥ Config.rateBytes then raise .badLength s
    else
      match s.readMsg s.mptr.toNat s.remaining with
      | none => raise .msgAccess s
      | some d => .next (s.finalize (pad (xorin s.lanes d) d.length))

/-- ABSORB (R136): every byte is read before the first block is absorbed. -/
def execAbsorb (s : State) : Result :=
  accept s <|
    if s.phase ≠ .absorb then raise .badPhase s
    else if s.overrun then raise .badLength s
    else
      match s.readMsg s.mptr.toNat s.remaining with
      | none => raise .msgAccess s
      | some m => .next (s.finalize (absorbFrom s.lanes m))

/-- SQUEEZE L (R140). -/
def execSqueeze (len : BitVec 16) (s : State) : Result :=
  accept s <|
    if s.phase ≠ .final then raise .badPhase s
    else deliver s s (squeeze s.lanes len.toNat) len

/-- HASH (R141): in any phase; all reads come before the first write; MPTR ends at MLEN (log 7). -/
def execHash (s : State) : Result :=
  accept s <|
    match s.readMsg 0 s.mlen.toNat with
    | none => raise .msgAccess s
    | some m => deliver s (s.setMptr s.mlen) (squeeze (absorb m) Config.digestBytes) 32

end Sys2Proof.Machine
end

