-- ==== Sys2Proof/Machine/Flags.lean ====
section
/-! DEFINITION. The status bits. The datapath computes no flag (10_state.md R34): the only status is the STATUS register,
its fields PHASE, ERR and CAUSE and the word they make, and the other control registers as the host reads them. -/

namespace Sys2Proof.Machine

/-- PHASE as its two bits (10_state.md R29). -/
def Phase.code : Phase → BitVec 2
  | .absorb => 0
  | .final => 1
  | .done => 2

/-- CAUSE as its four bits (10_state.md R29, 60_exceptions.md R171). -/
def Cause.code : Cause → BitVec 4
  | .none => 0
  | .illegalCmd => 1
  | .badOperand => 2
  | .badPhase => 3
  | .badLength => 4
  | .msgAccess => 5
  | .outAccess => 6

/-- `STATUS = {0 (24 bits), CAUSE (4), 0 (1), ERR (1), PHASE (2)}` (10_state.md R29), that is
`CAUSE << 4 | ERR << 2 | PHASE`. -/
def State.statusWord (s : State) : BitVec 32 :=
  s.cause.code.setWidth 32 <<< 4 ||| (BitVec.ofBool s.err).setWidth 32 <<< 2 ||| s.phase.code.setWidth 32

/-- The control register `CR<n>` as a host read returns it, zero-extended to 64 bits (10_state.md R28, 20_memory.md R58);
none for a number that is not in the table of R28. -/
def State.readCr (s : State) : Nat → Option Word
  | 0 => some (s.statusWord.setWidth 64)
  | 1 => some s.mlen
  | 2 => some s.mptr
  | 3 => some (s.olen.setWidth 64)
  | _ => none

/-- `HostWrite(CR, n, v)`: CR1 is written, a write to CR0, CR2 or CR3 is ignored (10_state.md R28, 20_memory.md R58,
90_conflicts.md C11); none for a number that is not in the table of R28. -/
def State.writeCr (s : State) (v : Word) : Nat → Option State
  | 0 => some s
  | 1 => some (s.setMlen v)
  | 2 => some s
  | 3 => some s
  | _ => none

end Sys2Proof.Machine
end

