-- ==== Sys2Proof/Machine/HostOps.lean ====
section
/-! DEFINITION. The host's operations on the engine (20_memory.md R58), each one indivisible step. -/

namespace Sys2Proof.Machine

/-- `HostIssue(W)` (30_encoding.md R82): while a fault is recorded every word is refused (here and in every meaning by
`accept`); a word that is no command faults ILLEGAL_CMD; any other word runs its command to completion. -/
def issue (W : Command) (s : State) : Result :=
  match decode W with
  | .ok i => exec i s
  | .error _ => accept s (raise .illegalCmd s)

/-- `HostRead(L, i)` (10_state.md R22). -/
def hostReadLane (i : Nat) (s : State) : Result :=
  if i < 25 then .next (s.setHostData (s.lanes.reg i)) else .refused .noSuchLane

/-- `HostWrite(L, i, v)` (10_state.md R22): in any phase and whatever ERR holds. -/
def hostWriteLane (i : Nat) (v : Word) (s : State) : Result :=
  if i < 25 then .next (s.setLanes (s.lanes.setReg i v)) else .refused .noSuchLane

/-- `HostRead(CR, n)` (10_state.md R28): no side effect, reading STATUS does not clear ERR. -/
def hostReadCr (n : Nat) (s : State) : Result :=
  match s.readCr n with
  | some v => .next (s.setHostData v)
  | none => .refused .noSuchControlRegister

/-- `HostWrite(CR, n, v)` (10_state.md R28, R30). -/
def hostWriteCr (n : Nat) (v : Word) (s : State) : Result :=
  match s.writeCr v n with
  | some t => .next t
  | none => .refused .noSuchControlRegister

/-- `HostMsgWrite(a, v)` (20_memory.md R52, R58): needs `MsgBacked(a)`. -/
def hostWriteMsg (a : Word) (v : Byte) (s : State) : Result :=
  if s.msgBacked a.toNat then .next (s.setMsg (s.msg.writeRun a.toNat [v])) else .refused .msgAddressNotBacked

/-- `HostOutRead(a)` (20_memory.md R53, R58): the byte a command wrote; where there is none, a new free value each time
(log 5). OUT has no address above 65534 (R50). -/
def hostReadOut (a : Nat) (s : State) : Result :=
  if Config.outSpace ≤ a then .fault .outAddressOutsideSpace
  else
    match s.out.read? a with
    | some v => .next (s.setHostData (v.setWidth 64))
    | none =>
      .next ((s.setHostData ((Config.unspecifiedOutByte s.freeTick a).setWidth 64)).setFreeTick (s.freeTick + 1))

/-- One host operation (20_memory.md R58). -/
def perform (op : HostOp) (s : State) : Result :=
  match op with
  | .reset => .next (hostReset s)
  | .issue W => issue W s
  | .readLane i => hostReadLane i s
  | .writeLane i v => hostWriteLane i v s
  | .readCr n => hostReadCr n s
  | .writeCr n v => hostWriteCr n v s
  | .writeMsg a v => hostWriteMsg a v s
  | .readOut a => hostReadOut a s

end Sys2Proof.Machine
end

