-- ==== Sys2Proof/Machine/Step.lean ====
section
/-! DEFINITION. One step: the host's next operation (20_memory.md R58, R59). -/

namespace Sys2Proof.Machine

/-- The host performs its first pending operation, whole, and it is no longer pending; with none pending the engine is
idle and all state is retained (20_memory.md R59, 60_exceptions.md R184). -/
def step (s : State) : Host.Outcome State Fault Refusal :=
  match s.host with
  | [] => .next s
  | op :: rest => perform op (s.setHost rest)

/-- The word of a table entry issued next. There is no program memory (20_memory.md R62): a command comes to run by the
host's issuing it, so it is the first of the pending host operations (log 1). -/
def State.withFetchWord (s : State) (nbits w : Nat) : State :=
  s.setHost (.issue (tableWord nbits w) :: s.host)

end Sys2Proof.Machine
end

