-- ==== Sys2Proof/Machine/Assembly.lean ====
section
/-! DEFINITION. The spec's listings: the text of a command, the pseudo-instructions, and what the lines of a listing
make the host do (30_encoding.md R88, R89). Nothing here is decoded or executed by the engine. -/

namespace Sys2Proof

/-- The text of a command: the mnemonic, and the operand in decimal for IOTA, ROUND and SQUEEZE (R88). -/
def Instr.text (i : Instr) : String :=
  match i with
  | .iota ir => i.mnemonic ++ " " ++ toString ir.toNat
  | .round ir => i.mnemonic ++ " " ++ toString ir.toNat
  | .squeeze len => i.mnemonic ++ " " ++ toString len.toNat
  | _ => i.mnemonic

/-- The pseudo-instructions (R89). -/
inductive Pseudo where
  | f1600
  | keccak256
  | digest
  | rounds
  | steps (ir : BitVec 8)
deriving DecidableEq, Repr

/-- What the assembler replaces a pseudo-instruction by (R89). -/
def Pseudo.expand : Pseudo → List Instr
  | .f1600 => [.permute]
  | .keccak256 => [.hash]
  | .digest => [.squeeze 32]
  | .rounds => (List.range 24).map fun ir => .round (BitVec.ofNat 8 ir)
  | .steps ir => [.theta, .rhopi, .chi, .iota ir]

/-- A line of a listing (R88). -/
inductive ListingLine where
  | command (i : Instr)
  | pseudo (p : Pseudo)
  /-- `.reset` -/
  | reset
  /-- `.mlen n` -/
  | mlen (n : Word)
  /-- `.msg ...`: the message bytes, from MSG address 0 -/
  | msg (m : List Byte)
  /-- `.lane i = v` -/
  | lane (i : Nat) (v : Word)
  /-- `.expect ...`: a check, not an action -/
  | expect
deriving DecidableEq, Repr

/-- The host operations of a line (R88). -/
def ListingLine.ops : ListingLine → List Machine.HostOp
  | .command i => [.issue (encode i)]
  | .pseudo p => p.expand.map fun i => .issue (encode i)
  | .reset => [.reset]
  | .mlen n => [.writeCr 1 n]
  | .msg m => m.mapIdx fun a v => .writeMsg (BitVec.ofNat 64 a) v
  | .lane i v => [.writeLane i v]
  | .expect => []

/-- The host operations of a listing, in order (R88). -/
def listingOps (p : List ListingLine) : List Machine.HostOp := p.flatMap ListingLine.ops

end Sys2Proof
end

