-- ==== Sys2Proof/Machine/Digest.lean ====
section
/-! DEFINITION. The host-side functions on a digest (42_digest_format.md R160 to R163): no command and no engine state. -/

namespace Sys2Proof

/-- The document's `hash(input)`: the 32 bytes OUT[0..31] of HASH (41_sponge.md R141). -/
def hashOf (m : List Byte) : List Byte := (squeeze (absorb m) Config.digestBytes).1

/-- Raw mode: the bytes unmodified (R160). -/
def rawDigest (out : List Byte) : List Byte := out

/-- `HEXDIGITS = "0123456789abcdef"` (R161). -/
def hexDigits : List Char := ['0', '1', '2', '3', '4', '5', '6', '7', '8', '9', 'a', 'b', 'c', 'd', 'e', 'f']

/-- `HEXDIGITS[v]` for `v` below 16. -/
def hexDigit (v : Nat) : Char := hexDigits.getD v '0'

/-- Hex mode: two lowercase digits a byte, the high four bits first (R161). -/
def hexDigest : List Byte → List Char
  | [] => []
  | b :: bs => hexDigit (b.toNat / 16) :: hexDigit (b.toNat % 16) :: hexDigest bs

/-- `hashHex(M) = hex(hash(M))` (R162). -/
def hashHex (m : List Byte) : List Char := hexDigest (hashOf m)

/-- The value of a lowercase hex digit. -/
def hexValue? (c : Char) : Option Nat := hexDigits.idxOf? c

/-- Decoding hex: two lowercase digits a byte; none for any other text (the "decoded from hex" of R163;
log 14). -/
def hexDecode : List Char → Option (List Byte)
  | [] => some []
  | [_] => none
  | c :: d :: cs =>
    match hexValue? c, hexValue? d, hexDecode cs with
    | some h, some l, some bs => some (BitVec.ofNat 8 (16 * h + l) :: bs)
    | _, _, _ => none

end Sys2Proof
end

