-- ==== Sys2Proof/Safety.lean ====
section
/-! DEFINITION. The terms claims are stated in: commands in sequence, the invariant of State, what a finished hash is,
and the launch premises of a claim about a digest. -/

namespace Sys2Proof

/-- The datapath commands (40_permutation.md R100). -/
def Instr.datapath : Instr → Bool
  | .theta => true
  | .rho => true
  | .pi => true
  | .rhopi => true
  | .chi => true
  | .iota _ => true
  | .round _ => true
  | .permute => true
  | .init => false
  | .absb => false
  | .absf => false
  | .absorb => false
  | .squeeze _ => false
  | .hash => false

end Sys2Proof

namespace Sys2Proof.Machine

/-- `F ; G` on commands: F, then G in the state F leaves (00_scope.md R11). -/
def andThen (r : Result) (f : State → Result) : Result :=
  match r with
  | .next s => f s
  | .fault x => .fault x
  | .refused x => .refused x

/-- The commands, one after the other (00_scope.md R11). -/
def runCommands : List Instr → State → Result
  | [], s => .next s
  | i :: is, s => andThen (exec i s) (runCommands is)

/-- What every step keeps: U5 of 93_implementation_defined.md for the STATUS fields, the canonical form of the two
memories, and what OLEN says about OUT. -/
structure State.Inv (s : State) : Prop where
  /-- `(ERR = 0) = (CAUSE = 0)` (U5) -/
  cause_recorded : s.err = false ↔ s.cause = .none
  /-- before a SQUEEZE or HASH has completed there is no output (R33, R38) -/
  no_output_before_done : s.phase ≠ .done → s.olen = 0
  /-- with no fault recorded, OUT[0 .. OLEN-1] all hold bytes a command wrote (R33, R53) -/
  output_defined : s.err = false → ∀ a, a < s.olen.toNat → (s.out.read? a).isSome
  msg_wf : s.msg.wf
  out_wf : s.out.wf
  /-- MSG holds nothing at an address that does not exist or is not backed (R52) -/
  msg_backed : ∀ c ∈ s.msg, s.msgBacked c.1
  /-- OUT holds nothing at an address that does not exist or is not backed (R53) -/
  out_backed : ∀ c ∈ s.out, s.outBacked c.1

/-- The same control registers: everything of the engine but the lanes (10_state.md, "Summary of all state"). -/
def State.sameControl (s t : State) : Prop :=
  s.phase = t.phase ∧ s.err = t.err ∧ s.cause = t.cause ∧ s.mlen = t.mlen ∧ s.mptr = t.mptr ∧ s.olen = t.olen

/-- The same engine state: lanes and control registers. -/
def State.sameEngine (s t : State) : Prop := s.lanes = t.lanes ∧ s.sameControl t

/-- A hash run has ended successfully (70_reset_and_hazards.md R204). -/
def State.hashDone (s : State) : Prop := s.phase = .done ∧ s.err = false

/-- OUT[0 .. n-1], where each byte has a defined value. -/
def State.outBytes (s : State) (n : Nat) : List (Option Byte) := (List.range n).map s.out.read?

/-- Premise P3 and the message part of P2 (70_reset_and_hazards.md R213): MLEN is the length of `m`, and MSG[0 ..
MLEN-1] is backed and holds `m`. -/
def State.holdsMessage (s : State) (m : List Byte) : Prop :=
  s.mlen.toNat = m.length ∧ s.readMsg 0 m.length = some m

/-- Premise P2 for the output: `OutBacked(j)` for all `j < n` (70_reset_and_hazards.md R213). -/
def State.outReady (s : State) (n : Nat) : Prop := ∀ j, j < n → s.outBacked j = true

/-- The three command sequences that hash a message of `n` bytes (70_reset_and_hazards.md R203, step 3). -/
def hashSequences (n : Nat) : List (List Instr) :=
  [[.hash], [.init, .absorb, .squeeze 32], [.init] ++ List.replicate (n / 136) .absb ++ [.absf, .squeeze 32]]

end Sys2Proof.Machine
end

