-- ==== Sys2Proof/Certificates/Slice0/Obligations.lean ====
section
/-! DEFINITION. The statements for the provers. Numbers that a rule of the spec prints are written out here, not taken
from the model's tables. -/

open Sys2Proof Sys2Proof.Machine

/-! ### Encoding -/

/-- Words written out from the table and the worked encodings of 30_encoding.md R84. -/
def Obligations.DecodeOfWrittenOutWords : Prop :=
  decode 0b00000001000000000000000000000000 = .ok .init ∧ decode 0b00010011000000000000000000000000 = .ok .rhopi ∧
  decode 0x15050000 = .ok (.iota 5) ∧ decode 0x16170000 = .ok (.round 23) ∧ decode 0x16FF0000 = .ok (.round 255) ∧
  decode 0b00100010000000000000000000000000 = .ok .absorb ∧ decode 0x30000020 = .ok (.squeeze 32) ∧
  decode 0x300000C8 = .ok (.squeeze 200) ∧ decode 0x40000000 = .ok .hash

/-- Decode and encode agree, for every command and every operand its field admits. -/
def Obligations.DecodeEncode : Prop := ∀ i : Instr, decode (encode i) = .ok i

/-- Each command has one word: a word that decodes is the encoding of what it decodes to. -/
def Obligations.EncodeDecode : Prop := ∀ (W : Command) (i : Instr), decode W = .ok i → encode i = W

/-- 30_encoding.md R84: the opcode map as match and mask, each operand from its own bits, and the worked encodings. -/
def Obligations.OpcodeMapMatchAndMask : Prop :=
  (∀ W : Command,
    (decode W = .ok .init ↔ W &&& 0xFFFFFFFF = 0x01000000) ∧
    (decode W = .ok .theta ↔ W &&& 0xFFFFFFFF = 0x10000000) ∧
    (decode W = .ok .rho ↔ W &&& 0xFFFFFFFF = 0x11000000) ∧
    (decode W = .ok .pi ↔ W &&& 0xFFFFFFFF = 0x12000000) ∧
    (decode W = .ok .rhopi ↔ W &&& 0xFFFFFFFF = 0x13000000) ∧
    (decode W = .ok .chi ↔ W &&& 0xFFFFFFFF = 0x14000000) ∧
    (∀ ir, decode W = .ok (.iota ir) ↔ W &&& 0xFF00FFFF = 0x15000000 ∧ ir = W.extractLsb' 16 8) ∧
    (∀ ir, decode W = .ok (.round ir) ↔ W &&& 0xFF00FFFF = 0x16000000 ∧ ir = W.extractLsb' 16 8) ∧
    (decode W = .ok .permute ↔ W &&& 0xFFFFFFFF = 0x17000000) ∧
    (decode W = .ok .absb ↔ W &&& 0xFFFFFFFF = 0x20000000) ∧
    (decode W = .ok .absf ↔ W &&& 0xFFFFFFFF = 0x21000000) ∧
    (decode W = .ok .absorb ↔ W &&& 0xFFFFFFFF = 0x22000000) ∧
    (∀ len, decode W = .ok (.squeeze len) ↔ W &&& 0xFFFF0000 = 0x30000000 ∧ len = W.extractLsb' 0 16) ∧
    (decode W = .ok .hash ↔ W &&& 0xFFFFFFFF = 0x40000000)) ∧
  encode (.round 23) = 0x16170000 ∧ encode (.iota 5) = 0x15050000 ∧ encode (.squeeze 32) = 0x30000020 ∧
  encode (.squeeze 200) = 0x300000C8 ∧ encode .hash = 0x40000000

/-- 30_encoding.md R82, R83, 60_exceptions.md R172: what HostIssue does with a word, line by line: refused while a fault
is recorded; ILLEGAL_CMD for an opcode not among the 14, and for a defined opcode with a non-zero reserved field; every
other word is a command and runs it. -/
def Obligations.IssueLineByLine : Prop :=
  ∀ (W : Command) (s : State),
    let op := (W.extractLsb' 24 8).toNat
    let a := W.extractLsb' 16 8
    let b := W.extractLsb' 0 16
    let known := op ∈ [0x01, 0x10, 0x11, 0x12, 0x13, 0x14, 0x15, 0x16, 0x17, 0x20, 0x21, 0x22, 0x30, 0x40]
    let reserved := (op ≠ 0x15 ∧ op ≠ 0x16 ∧ a ≠ 0) ∨ (op ≠ 0x30 ∧ b ≠ 0)
    (s.err = true → issue W s = .next s) ∧
    (s.err = false → ¬ known → issue W s = .next (s.setFault true .illegalCmd)) ∧
    (s.err = false → known → reserved → issue W s = .next (s.setFault true .illegalCmd)) ∧
    (known → ¬ reserved → ∃ i, W = encode i ∧ issue W s = exec i s)

/-- A step performs the host's next operation, whatever it is (log 1), and the operation is no longer pending; a
HostIssue is `issue` of its word; an issued word that decodes to `i` runs `exec i`; the word `withFetchWord` places runs
next. -/
def Obligations.StepRunsDecodedCommand : Prop :=
  (∀ (s : State) (op : HostOp) (rest : List HostOp), s.host = op :: rest → step s = perform op (s.setHost rest)) ∧
  (∀ (s : State) (W : Command), perform (.issue W) s = issue W s) ∧
  (∀ (s : State) (W : Command) (rest : List HostOp) (i : Instr),
    s.host = .issue W :: rest → decode W = .ok i → step s = exec i (s.setHost rest)) ∧
  (∀ (s : State) (i : Instr),
    step (s.withFetchWord 32 (encode i).toNat) = exec i s ∧
    s.withFetchWord 32 (encode i).toNat = s.setHost (.issue (encode i) :: s.host))

/-- Between commands the engine is idle and all state is retained (60_exceptions.md R184; log 1). -/
def Obligations.IdleStepChangesNothing : Prop := ∀ s : State, s.host = [] → step s = .next s

/-! ### The datapath commands -/

/-- 40_permutation.md R101: THETA, lane by lane, with the column parities written out; nothing but the lanes changes;
the rotation by 1 takes bit 63 to bit 0 and every other bit one place up. -/
def Obligations.ThetaLanes : Prop :=
  (∀ (v : Word) (b : Nat), b < 64 → (rol64 v 1).getLsbD ((b + 1) % 64) = v.getLsbD b) ∧
  ∀ s : State, s.err = false → ∃ A : Lanes, exec .theta s = .next (s.setLanes A) ∧
    ∀ x y : Fin 5,
      let C := fun c : Fin 5 => s.lanes.xy c 0 ^^^ s.lanes.xy c 1 ^^^ s.lanes.xy c 2 ^^^ s.lanes.xy c 3 ^^^ s.lanes.xy c 4
      A.xy x y = s.lanes.xy x y ^^^ (C (x + 4) ^^^ rol64 (C (x + 1)) 1)

/-- 40_permutation.md R103: RHO turns the lane at (x, y) left by `ROT[x][y]`; what turning left is, for every amount (bit
`b` becomes bit `(b + n) mod 64`, and the amount 0 is the identity: 00_scope.md R11); the table, its relation to the
orbit, and that the 24 other amounts differ and none is 0. -/
def Obligations.RhoLanes : Prop :=
  (∀ (v : Word) (n b : Nat), n < 64 → b < 64 → (rol64 v n).getLsbD ((b + n) % 64) = v.getLsbD b) ∧
  (∀ v : Word, rol64 v 0 = v) ∧
  (∀ s : State, s.err = false → ∃ A : Lanes, exec .rho s = .next (s.setLanes A) ∧
    ∀ x y : Fin 5, A.xy x y = rol64 (s.lanes.xy x y) (rot x y)) ∧
  (∀ x y : Fin 5, some (rot x y) =
    ([0, 1, 62, 28, 27, 36, 44, 6, 55, 20, 3, 10, 43, 25, 39, 41, 45, 15, 21, 8, 18, 2, 61, 56, 14] : List Nat)[x.val + 5 * y.val]?) ∧
  rot 0 0 = 0 ∧
  (∀ t, t < 24 → rot (orbit t).1 (orbit t).2 = (t + 1) * (t + 2) / 2 % 64) ∧
  (∀ x y x' y' : Fin 5, rot x y = rot x' y' → x = x' ∧ y = y')

/-- 40_permutation.md R105: PI moves the lane at (x, y) to (y, 2x+3y mod 5) unturned; both tables; the map is a
bijection that fixes (0, 0) and cycles the other 24. -/
def Obligations.PiLanes : Prop :=
  (∀ s : State, s.err = false → ∃ A : Lanes, exec .pi s = .next (s.setLanes A) ∧
    ∀ x y : Fin 5, A.xy y (2 * x + 3 * y) = s.lanes.xy x y) ∧
  (∀ x y : Fin 5, dst x y = (y, 2 * x + 3 * y) ∧
    some ((dst x y).1.val + 5 * (dst x y).2.val) =
      ([0, 10, 20, 5, 15, 16, 1, 11, 21, 6, 7, 17, 2, 12, 22, 23, 8, 18, 3, 13, 14, 24, 9, 19, 4] : List Nat)[x.val + 5 * y.val]?) ∧
  (∀ X Y : Fin 5, src X Y = (X + 3 * Y, X) ∧ dst (src X Y).1 (src X Y).2 = (X, Y) ∧
    some ((src X Y).1.val + 5 * (src X Y).2.val) =
      ([0, 6, 12, 18, 24, 3, 9, 10, 16, 22, 1, 7, 13, 19, 20, 4, 5, 11, 17, 23, 2, 8, 14, 15, 21] : List Nat)[X.val + 5 * Y.val]?) ∧
  (∀ x y : Fin 5, (x, y) ≠ (0, 0) → ∃ t, t < 24 ∧ orbit t = (x, y)) ∧ orbit 24 = orbit 0

/-- 40_permutation.md R106: PI applied 24 times is the identity. -/
def Obligations.PiHasOrder24 : Prop :=
  ∀ s : State, s.err = false → runCommands (List.replicate 24 .pi) s = .next s

/-- 40_permutation.md R108: RHOPI turns the lane at (x, y) by `ROT[x][y]` and moves it to (y, 2x+3y mod 5); it is RHO
and then PI; lane (0, 0) stays. -/
def Obligations.RhopiLanes : Prop :=
  ∀ s : State, s.err = false → ∃ A : Lanes, exec .rhopi s = .next (s.setLanes A) ∧
    (∀ x y : Fin 5, A.xy y (2 * x + 3 * y) = rol64 (s.lanes.xy x y) (rot x y)) ∧
    A.xy 0 0 = s.lanes.xy 0 0 ∧ runCommands [.rho, .pi] s = exec .rhopi s

/-- 40_permutation.md R107, R108: the running formulation, along the orbit with the accumulated offset, equals the two
tables lane for lane, from every state. -/
def Obligations.RunningRhopiEqualsTables : Prop :=
  (∀ A : Lanes, rhopiRunning A = rhopi A) ∧
  (∀ t, t < 24 → orbitOffset t = (t + 1) * (t + 2) / 2) ∧
  (∀ t, orbit (t + 1) = ((orbit t).2, 2 * (orbit t).1 + 3 * (orbit t).2))

/-- 40_permutation.md R111: CHI, lane by lane, from the input state. -/
def Obligations.ChiLanes : Prop :=
  ∀ s : State, s.err = false → ∃ A : Lanes, exec .chi s = .next (s.setLanes A) ∧
    ∀ x y : Fin 5, A.xy x y = s.lanes.xy x y ^^^ (~~~ s.lanes.xy (x + 1) y &&& s.lanes.xy (x + 2) y)

/-- 40_permutation.md R113: IOTA XORs the round constant into lane (0, 0), changes no other lane, and twice restores the
state. -/
def Obligations.IotaLanes : Prop :=
  ∀ (ir : BitVec 8) (h : ir.toNat < 24) (s : State), s.err = false →
    (∃ A : Lanes, exec (.iota ir) s = .next (s.setLanes A) ∧
      A.xy 0 0 = s.lanes.xy 0 0 ^^^ rc ⟨ir.toNat, h⟩ ∧
      ∀ x y : Fin 5, (x, y) ≠ (0, 0) → A.xy x y = s.lanes.xy x y) ∧
    runCommands [.iota ir, .iota ir] s = .next s

/-- 40_permutation.md R109, R110: the 24 round constants are the printed ones, line by line of the rule's table (line
`k` has the constants `k`, `k+8`, `k+16`), and the ones the LFSR generates; only the bits 0, 1, 3, 7, 15, 31, 63 can
be 1. -/
def Obligations.RoundConstantsAreGenerated : Prop :=
  (∀ (k : Nat) (h : k < 8), some (rc ⟨k, by omega⟩, rc ⟨k + 8, by omega⟩, rc ⟨k + 16, by omega⟩) =
    ([
      (0x0000000000000001, 0x000000000000008A, 0x8000000000008002),
      (0x0000000000008082, 0x0000000000000088, 0x8000000000000080),
      (0x800000000000808A, 0x0000000080008009, 0x000000000000800A),
      (0x8000000080008000, 0x000000008000000A, 0x800000008000000A),
      (0x000000000000808B, 0x000000008000808B, 0x8000000080008081),
      (0x0000000080000001, 0x800000000000008B, 0x8000000000008080),
      (0x8000000080008081, 0x8000000000008089, 0x0000000080000001),
      (0x8000000000008009, 0x8000000000008003, 0x8000000080008008)]
      : List (Word × Word × Word))[k]?) ∧
  ∀ i : Fin 24, rc i = rcGenerated i.val ∧ ∀ b, b < 64 → (rc i).getLsbD b = true → b ∈ [0, 1, 3, 7, 15, 31, 63]

/-- 40_permutation.md R114: ROUND ir is one whole round, and leaves what THETA ; RHOPI ; CHI ; IOTA ir leaves. -/
def Obligations.RoundIsItsFourSteps : Prop :=
  ∀ (ir : BitVec 8) (h : ir.toNat < 24) (s : State), s.err = false →
    exec (.round ir) s = .next (s.setLanes (iota (chi (rhopi (theta s.lanes))) ⟨ir.toNat, h⟩)) ∧
    runCommands [.theta, .rhopi, .chi, .iota ir] s = exec (.round ir) s

/-- 40_permutation.md R115: PERMUTE completes, changes lanes only, and leaves what ROUND 0 ; ... ; ROUND 23 leaves. -/
def Obligations.PermuteIsTwentyFourRounds : Prop :=
  ∀ s : State, s.err = false →
    exec .permute s = .next (s.setLanes (permute s.lanes)) ∧
    runCommands ((List.range 24).map fun ir => .round (BitVec.ofNat 8 ir)) s = exec .permute s

/-- 40_permutation.md R100: every datapath command is refused while a fault is recorded; else, in every phase and for
every lane value, it completes and changes lanes only, or (IOTA and ROUND with an index above 23) faults BAD_OPERAND and
changes no lane. -/
def Obligations.DatapathCommandsChangeLanesOnly : Prop :=
  ∀ (i : Instr) (s : State), i.datapath = true →
    (s.err = true → exec i s = .next s) ∧
    (s.err = false → i.wf = true → ∃ A : Lanes, exec i s = .next (s.setLanes A)) ∧
    (s.err = false → i.wf = false → exec i s = .next (s.setFault true .badOperand))

/-! ### The sponge -/

/-- 70_reset_and_hazards.md R202: INIT gives the lanes, PHASE, MPTR and OLEN their reset values and leaves MLEN and all
else; it is refused while a fault is recorded; reset also zeroes MLEN and clears the fault. -/
def Obligations.InitAgainstReset : Prop :=
  ∀ s : State,
    (s.err = false → exec .init s = .next { s with
      lanes := State.reset.lanes, phase := State.reset.phase, mptr := State.reset.mptr, olen := State.reset.olen }) ∧
    (s.err = true → exec .init s = .next s) ∧
    perform .reset s = .next { s with
      lanes := State.reset.lanes, phase := State.reset.phase, err := false, cause := .none, mlen := 0,
      mptr := State.reset.mptr, olen := State.reset.olen }

/-- 41_sponge.md R132: `xorin` XORs `d[i]` into byte `i` of the state for `i < n <= 136` and changes nothing else; in
lane terms it XORs the little-endian assembly of eight message bytes, missing ones taken as 0. -/
def Obligations.XorinByBytesAndByLanes : Prop :=
  ∀ (A : Lanes) (d : List Byte), d.length ≤ 136 →
    (∀ k, k < d.length → some ((xorin A d).byte k ^^^ A.byte k) = d[k]?) ∧
    (∀ k, d.length ≤ k → k < 200 → (xorin A d).byte k = A.byte k) ∧
    (∀ i, i < 25 → (xorin A d).reg i = A.reg i ^^^
      BitVec.ofNat 64 ((List.range 8).map fun k => (d.getD (8 * i + k) 0).toNat * 2 ^ (8 * k)).sum)

/-- 41_sponge.md R133: ABSB with at least 136 unabsorbed backed bytes XORs the 136 bytes at MPTR into the state,
permutes, and adds 136 to MPTR, which does not wrap; nothing else changes. -/
def Obligations.AbsbAbsorbsOneBlock : Prop :=
  ∀ s : State, s.err = false → s.phase = .absorb → s.mptr.toNat + 136 ≤ s.mlen.toNat →
    (∀ i, i < 136 → s.msgBacked (s.mptr.toNat + i) = true) →
    exec .absb s = .next { s with
      lanes := permute (xorin s.lanes ((List.range 136).map fun i => s.msgByte (s.mptr.toNat + i)))
      mptr := s.mptr + 136 } ∧
    (s.mptr + 136).toNat = s.mptr.toNat + 136

/-- 41_sponge.md R135: ABSF with fewer than 136 unabsorbed bytes XORs them in, pads after them, permutes, sets MPTR to
MLEN and PHASE to FINAL; nothing else changes. -/
def Obligations.AbsfAbsorbsTheRemainder : Prop :=
  ∀ (s : State) (q : Nat), s.err = false → s.phase = .absorb → s.mptr.toNat + q = s.mlen.toNat → q < 136 →
    (∀ i, i < q → s.msgBacked (s.mptr.toNat + i) = true) →
    exec .absf s = .next { s with
      lanes := pad (xorin s.lanes ((List.range q).map fun i => s.msgByte (s.mptr.toNat + i))) q
      mptr := s.mlen
      phase := .final }

/-- 41_sponge.md R134: padding for any suffix byte: XOR the suffix into byte `q`, permute if `q = 135` and the suffix's
top bit is set, XOR 0x80 into byte 135, permute; with this engine's suffix 0x01 always exactly one permutation, and for
`q = 135` one XOR of 0x81. -/
def Obligations.PaddingOfAnySuffix : Prop :=
  (∀ (suffix : Byte) (A : Lanes) (q : Nat), q ≤ 135 →
    (q = 135 → suffix.getLsbD 7 = true → padWith suffix A q = permute ((permute (A.xorByte q suffix)).xorByte 135 0x80)) ∧
    (q ≠ 135 ∨ suffix.getLsbD 7 = false → padWith suffix A q = permute ((A.xorByte q suffix).xorByte 135 0x80))) ∧
  (∀ (A : Lanes) (q : Nat), q ≤ 135 → pad A q = padWith 0x01 A q ∧ pad A q = permute ((A.xorByte q 0x01).xorByte 135 0x80)) ∧
  (∀ A : Lanes, pad A 135 = permute (A.xorByte 135 0x81))

/-- 41_sponge.md R136, completion: ABSORB with backed bytes leaves the lanes of the absorb loop, MPTR = MLEN and PHASE
FINAL; nothing else changes. -/
def Obligations.AbsorbFinalizes : Prop :=
  ∀ s : State, s.err = false → s.phase = .absorb → s.mptr.toNat ≤ s.mlen.toNat →
    (∀ a, s.mptr.toNat ≤ a → a < s.mlen.toNat → s.msgBacked a = true) →
    exec .absorb s = .next { s with
      lanes := absorbFrom s.lanes (s.msgBytes s.mptr.toNat (s.mlen.toNat - s.mptr.toNat))
      mptr := s.mlen
      phase := .final }

/-- 41_sponge.md R136: from any state where it does not fault, ABSORB leaves the same state as `n` ABSB commands
followed by one ABSF, where `n` is the number of full blocks still to absorb. -/
def Obligations.AbsorbIsBlocksThenRemainder : Prop :=
  ∀ s : State, s.err = false → s.phase = .absorb → s.mptr.toNat ≤ s.mlen.toNat →
    (∀ a, s.mptr.toNat ≤ a → a < s.mlen.toNat → s.msgBacked a = true) →
    runCommands (List.replicate ((s.mlen.toNat - s.mptr.toNat) / 136) .absb ++ [.absf]) s = exec .absorb s

/-- 41_sponge.md R137: INIT ; ABSORB with MLEN = N and MSG = M leaves the lanes `absorb(M)`, whose loop takes 136 bytes
at a time from 25 zero lanes. -/
def Obligations.InitAbsorbIsAbsorbFunction : Prop :=
  (∀ (m : List Byte) (s : State), s.err = false → s.holdsMessage m →
    runCommands [.init, .absorb] s = .next { s with lanes := absorb m, mptr := s.mlen, phase := .final, olen := 0 }) ∧
  (∀ m : List Byte, absorb m = absorbFrom Lanes.zero m) ∧
  (∀ (A : Lanes) (m : List Byte), 136 ≤ m.length →
    absorbFrom A m = absorbFrom (permute (xorin A (m.take 136))) (m.drop 136)) ∧
  (∀ (A : Lanes) (m : List Byte), m.length < 136 → absorbFrom A m = pad (xorin A m) m.length)

/-- 41_sponge.md R138: a squeeze gives `L` bytes; output byte `j` is byte `j mod 136` of the state after `j div 136`
extra permutations; it performs none for `L = 0` and `(L-1) div 136` for `L >= 1`. -/
def Obligations.SqueezeByteByByte : Prop :=
  ∀ (A : Lanes) (len : Nat),
    (squeeze A len).1.length = len ∧
    (∀ j, j < len → (squeeze A len).1[j]? = some (((permute^[j / 136]) A).byte (j % 136))) ∧
    (len = 0 → (squeeze A len).2 = A) ∧
    (1 ≤ len → (squeeze A len).2 = (permute^[(len - 1) / 136]) A)

/-- 41_sponge.md R140: SQUEEZE L in phase FINAL with OUT backed completes: OUT byte `j < L` is output byte `j`, every
other byte of OUT is as before, the lanes are the squeezed ones, OLEN = L, PHASE = DONE; nothing else changes. -/
def Obligations.SqueezeWritesItsOutput : Prop :=
  ∀ (len : BitVec 16) (s : State), s.err = false → s.phase = .final → (∀ j, j < len.toNat → s.outBacked j = true) →
    ∃ t : State, exec (.squeeze len) s = .next t ∧
      (∀ j, j < len.toNat → t.out.read? j = some (((permute^[j / 136]) s.lanes).byte (j % 136))) ∧
      (∀ a, len.toNat ≤ a → t.out.read? a = s.out.read? a) ∧
      t = { s with lanes := (squeeze s.lanes len.toNat).2, out := t.out, olen := len, phase := .done }

/-- 41_sponge.md R141: HASH in any phase, with MSG[0 .. MLEN-1] and OUT[0..31] backed, completes: OUT[0..31] is
`squeeze(absorb(MSG[0 .. MLEN-1]), 32)`, every other byte of OUT is as before, the lanes are `absorb(...)`, MPTR = MLEN
(log 7), OLEN = 32, PHASE = DONE; nothing else changes. -/
def Obligations.HashWritesTheDigest : Prop :=
  ∀ s : State, s.err = false → (∀ a, a < s.mlen.toNat → s.msgBacked a = true) → (∀ j, j < 32 → s.outBacked j = true) →
    let m := (List.range s.mlen.toNat).map s.msgByte
    ∃ t : State, exec .hash s = .next t ∧
      (∀ j, j < 32 → t.out.read? j = some ((absorb m).byte j)) ∧
      (∀ a, 32 ≤ a → t.out.read? a = s.out.read? a) ∧
      t = { s with lanes := absorb m, out := t.out, mptr := s.mlen, olen := 32, phase := .done }

/-- 41_sponge.md R141, 30_encoding.md R89: from any state with no fault recorded where none of the three faults, HASH
leaves the same state as INIT ; ABSORB ; SQUEEZE 32. -/
def Obligations.HashIsInitAbsorbSqueeze : Prop :=
  ∀ s : State, s.err = false → (∀ a, a < s.mlen.toNat → s.msgBacked a = true) → (∀ j, j < 32 → s.outBacked j = true) →
    runCommands [.init, .absorb, .squeeze 32] s = exec .hash s

/-- 70_reset_and_hazards.md R213: under the launch premises, each of the three command sequences of R203 ends with
ERR = 0, PHASE = DONE and OUT[0..31] = `squeeze(absorb(M), 32)`. -/
def Obligations.LaunchPremisesGiveTheDigest : Prop :=
  ∀ (m : List Byte) (s : State), s.err = false → s.holdsMessage m → s.outReady 32 →
    ∀ cmds ∈ hashSequences m.length, ∃ t : State,
      runCommands cmds s = .next t ∧ t.err = false ∧ t.phase = .done ∧ t.olen = 32 ∧
      t.outBytes 32 = ((squeeze (absorb m) 32).1).map some

/-- 41_sponge.md R142 (b): the digest depends on the message alone, not on the engine's earlier history: two engines in
any states with the same message backed give the same digest, lanes and registers. -/
def Obligations.HashForgetsHistory : Prop :=
  ∀ (m : List Byte) (s t : State), s.err = false → t.err = false → s.holdsMessage m → t.holdsMessage m →
    s.outReady 32 → t.outReady 32 →
    ∃ s' t' : State, exec .hash s = .next s' ∧ exec .hash t = .next t' ∧ s'.lanes = t'.lanes ∧ s'.phase = t'.phase ∧
      s'.err = t'.err ∧ s'.mptr = t'.mptr ∧ s'.olen = t'.olen ∧ s'.outBytes 32 = t'.outBytes 32

/-- 41_sponge.md R130 (c): no command reads a lane or a message byte to decide anything: two states with the same
control registers and the same backing leave the same control registers, whatever their lanes and memories hold. -/
def Obligations.ControlIgnoresData : Prop :=
  ∀ (i : Instr) (s t : State), s.sameControl t → s.platform = t.platform →
    ∃ s' t' : State, exec i s = .next s' ∧ exec i t = .next t' ∧ s'.sameControl t'

/-- 20_memory.md R60: the effect of an issued word on the engine is a function of the engine state, the word and the MSG
bytes below MLEN (and the platform's backing), and of nothing else: not of OUT, not of MSG beyond the message; and so is
what it leaves in each byte of OUT it changes. -/
def Obligations.CommandDependsOnNothingElse : Prop :=
  ∀ (W : Command) (s t : State), s.sameEngine t → s.platform = t.platform →
    (∀ a, a < s.mlen.toNat → s.msgByte a = t.msgByte a) →
    ∃ s' t' : State, issue W s = .next s' ∧ issue W t = .next t' ∧ s'.sameEngine t' ∧
      ∀ a, s'.out.read? a = t'.out.read? a ∨
        (s'.out.read? a = s.out.read? a ∧ t'.out.read? a = t.out.read? a)

/-! ### Faults -/

/-- 20_memory.md R60, 70_reset_and_hazards.md R210: every command, from every state, and every issued word, completes in
one step: none stops the machine. -/
def Obligations.EveryCommandCompletes : Prop :=
  (∀ (i : Instr) (s : State), ∃ t : State, exec i s = .next t) ∧
  (∀ (W : Command) (s : State), ∃ t : State, issue W s = .next t)

/-- 60_exceptions.md R173: IOTA and ROUND raise BAD_OPERAND exactly when the index is 24 or more, and no other command
ever does: every length of SQUEEZE is legal. -/
def Obligations.BadOperandExactly : Prop :=
  ∀ (i : Instr) (s : State), s.err = false →
    (exec i s = .next (s.setFault true .badOperand) ↔
      ∃ ir : BitVec 8, 24 ≤ ir.toNat ∧ (i = .iota ir ∨ i = .round ir))

/-- 60_exceptions.md R174: BAD_PHASE is raised by ABSB, ABSF and ABSORB when PHASE is FINAL or DONE and by SQUEEZE when
PHASE is ABSORB or DONE, and by nothing else. -/
def Obligations.BadPhaseExactly : Prop :=
  ∀ (i : Instr) (s : State), s.err = false →
    (exec i s = .next (s.setFault true .badPhase) ↔
      ((i = .absb ∨ i = .absf ∨ i = .absorb) ∧ (s.phase = .final ∨ s.phase = .done)) ∨
      ((∃ len, i = .squeeze len) ∧ (s.phase = .absorb ∨ s.phase = .done)))

/-- 60_exceptions.md R175: in phase ABSORB, BAD_LENGTH is raised when MLEN < MPTR (ABSB, ABSF, ABSORB), when fewer than
136 bytes remain (ABSB), or when 136 or more remain (ABSF), and by nothing else in any phase. -/
def Obligations.BadLengthExactly : Prop :=
  ∀ (i : Instr) (s : State), s.err = false →
    (exec i s = .next (s.setFault true .badLength) ↔
      s.phase = .absorb ∧
      (((i = .absb ∨ i = .absf ∨ i = .absorb) ∧ s.mlen.toNat < s.mptr.toNat) ∨
       (i = .absb ∧ s.mptr.toNat ≤ s.mlen.toNat ∧ s.mlen.toNat - s.mptr.toNat < 136) ∨
       (i = .absf ∧ s.mptr.toNat ≤ s.mlen.toNat ∧ 136 ≤ s.mlen.toNat - s.mptr.toNat)))

/-- 60_exceptions.md R177: a message byte that is needed and not backed makes the whole command fault MSG_ACCESS; an
output byte that must be written and is not backed makes it fault OUT_ACCESS, with every byte of OUT it was not to write
as before (of the bytes it was to write nothing is said: they are unspecified); HASH with both faults MSG_ACCESS. -/
def Obligations.AccessFaults : Prop :=
  ∀ s : State, s.err = false →
    (s.phase = .absorb → s.mptr.toNat + 136 ≤ s.mlen.toNat →
      (∃ i, i < 136 ∧ s.msgBacked (s.mptr.toNat + i) = false) → exec .absb s = .next (s.setFault true .msgAccess)) ∧
    (s.phase = .absorb → s.mptr.toNat ≤ s.mlen.toNat → s.mlen.toNat - s.mptr.toNat < 136 →
      (∃ a, s.mptr.toNat ≤ a ∧ a < s.mlen.toNat ∧ s.msgBacked a = false) →
      exec .absf s = .next (s.setFault true .msgAccess)) ∧
    (s.phase = .absorb → (∃ a, s.mptr.toNat ≤ a ∧ a < s.mlen.toNat ∧ s.msgBacked a = false) →
      exec .absorb s = .next (s.setFault true .msgAccess)) ∧
    ((∃ a, a < s.mlen.toNat ∧ s.msgBacked a = false) → exec .hash s = .next (s.setFault true .msgAccess)) ∧
    (∀ len : BitVec 16, s.phase = .final → (∃ j, j < len.toNat ∧ s.outBacked j = false) →
      ∃ t : State, exec (.squeeze len) s = .next t ∧
        t = { s with err := true, cause := .outAccess, out := t.out } ∧
        ∀ a, len.toNat ≤ a → t.out.read? a = s.out.read? a) ∧
    ((∀ a, a < s.mlen.toNat → s.msgBacked a = true) → (∃ j, j < 32 ∧ s.outBacked j = false) →
      ∃ t : State, exec .hash s = .next t ∧
        t = { s with err := true, cause := .outAccess, out := t.out } ∧
        ∀ a, 32 ≤ a → t.out.read? a = s.out.read? a)

/-- The model's choice for the bytes 60_exceptions.md R177 leaves unspecified (log 8): after OUT_ACCESS a byte of OUT the
command was to write has no defined value, so a host read of it answers a free value (log 5). -/
def Obligations.OutAccessLeavesNoDefinedBytes : Prop :=
  (∀ (s t : State) (len : BitVec 16), s.err = false → exec (.squeeze len) s = .next t → t.err = true → t.cause = .outAccess →
    ∀ a, a < len.toNat → t.out.read? a = none) ∧
  (∀ s t : State, s.err = false → exec .hash s = .next t → t.err = true → t.cause = .outAccess →
    ∀ a, a < 32 → t.out.read? a = none)

/-- 60_exceptions.md R178: one issued word reports one cause, the first that applies: nothing while a fault is recorded;
else illegal word, operand, phase, length, message access, output access; with none of them no fault is recorded. With
the rule's two examples. -/
def Obligations.CauseIsTheFirstThatApplies : Prop :=
  (∀ (W : Command) (s : State), s.err = true → issue W s = .next s) ∧
  (∀ (W : Command) (s t : State), s.err = false → issue W s = .next t →
    let op := (W.extractLsb' 24 8).toNat
    let a := W.extractLsb' 16 8
    let b := W.extractLsb' 0 16
    let absorbs := op = 0x20 ∨ op = 0x21 ∨ op = 0x22
    let illegal := op ∉ [0x01, 0x10, 0x11, 0x12, 0x13, 0x14, 0x15, 0x16, 0x17, 0x20, 0x21, 0x22, 0x30, 0x40] ∨
      (op ≠ 0x15 ∧ op ≠ 0x16 ∧ a ≠ 0) ∨ (op ≠ 0x30 ∧ b ≠ 0)
    let operand := (op = 0x15 ∨ op = 0x16) ∧ 24 ≤ a.toNat
    let phase := (absorbs ∧ s.phase ≠ .absorb) ∨ (op = 0x30 ∧ s.phase ≠ .final)
    let length := (absorbs ∧ s.mlen.toNat < s.mptr.toNat) ∨ (op = 0x20 ∧ s.mlen.toNat < s.mptr.toNat + 136) ∨
      (op = 0x21 ∧ s.mptr.toNat + 136 ≤ s.mlen.toNat)
    let msg := (op = 0x20 ∧ ∃ i, i < 136 ∧ s.msgBacked (s.mptr.toNat + i) = false) ∨
      ((op = 0x21 ∨ op = 0x22) ∧ ∃ k, s.mptr.toNat ≤ k ∧ k < s.mlen.toNat ∧ s.msgBacked k = false) ∨
      (op = 0x40 ∧ ∃ k, k < s.mlen.toNat ∧ s.msgBacked k = false)
    let out := (op = 0x30 ∧ ∃ j, j < b.toNat ∧ s.outBacked j = false) ∨ (op = 0x40 ∧ ∃ j, j < 32 ∧ s.outBacked j = false)
    (illegal → t.err = true ∧ t.cause = .illegalCmd) ∧
    (¬ illegal → operand → t.err = true ∧ t.cause = .badOperand) ∧
    (¬ illegal → phase → t.err = true ∧ t.cause = .badPhase) ∧
    (¬ illegal → ¬ phase → length → t.err = true ∧ t.cause = .badLength) ∧
    (¬ illegal → ¬ phase → ¬ length → msg → t.err = true ∧ t.cause = .msgAccess) ∧
    (¬ illegal → ¬ phase → ¬ length → ¬ msg → out → t.err = true ∧ t.cause = .outAccess) ∧
    (¬ illegal → ¬ operand → ¬ phase → ¬ length → ¬ msg → ¬ out → t.err = false)) ∧
  (∀ s : State, s.err = false → s.phase = .done → issue 0x20010000 s = .next (s.setFault true .illegalCmd)) ∧
  (∀ s : State, s.err = false → s.phase = .final → s.mlen.toNat < s.mptr.toNat →
    issue 0x21000000 s = .next (s.setFault true .badPhase))

/-- 60_exceptions.md R176, R171: a command that faults, from a state with no fault recorded, writes ERR and CAUSE and
changes nothing else (OUT under OUT_ACCESS apart), and its cause is one its row of R171 allows; the same for any issued
word. -/
def Obligations.FaultsArePrecise : Prop :=
  (∀ (W : Command) (s t : State), s.err = false → issue W s = .next t → t.err = true →
    t = { s with err := true, cause := t.cause, out := t.out } ∧ t.cause ≠ .none ∧
    (t.cause ≠ .outAccess → t.out = s.out)) ∧
  ∀ (i : Instr) (s t : State), s.err = false → exec i s = .next t → t.err = true →
    t = { s with err := true, cause := t.cause, out := t.out } ∧
    (t.cause ≠ .outAccess → t.out = s.out) ∧
    (match i with
      | .iota _ => t.cause = .badOperand
      | .round _ => t.cause = .badOperand
      | .absb => t.cause = .badPhase ∨ t.cause = .badLength ∨ t.cause = .msgAccess
      | .absf => t.cause = .badPhase ∨ t.cause = .badLength ∨ t.cause = .msgAccess
      | .absorb => t.cause = .badPhase ∨ t.cause = .badLength ∨ t.cause = .msgAccess
      | .squeeze _ => t.cause = .badPhase ∨ t.cause = .outAccess
      | .hash => t.cause = .msgAccess ∨ t.cause = .outAccess
      | _ => False)

/-- 60_exceptions.md R179: while ERR = 1 every issued word is refused and nothing changes, INIT and HASH included; host
reads and writes of lanes and registers still work; such a state is never the end of a successful hash. -/
def Obligations.RecordedFaultRefusesEverything : Prop :=
  ∀ s : State, s.err = true →
    (∀ W : Command, issue W s = .next s) ∧ exec .init s = .next s ∧ exec .hash s = .next s ∧
    (∀ i v, i < 25 → perform (.readLane i) s = .next (s.setHostData (s.lanes.reg i)) ∧
      perform (.writeLane i v) s = .next (s.setLanes (s.lanes.setReg i v))) ∧
    (∀ v, perform (.writeCr 1 v) s = .next (s.setMlen v)) ∧
    (∀ n, n < 4 → ∃ v, perform (.readCr n) s = .next (s.setHostData v)) ∧
    ¬ s.hashDone

/-- 60_exceptions.md R180: the only step that clears ERR or changes a recorded CAUSE is a HostReset, which also zeroes
the lanes and the other registers. -/
def Obligations.OnlyResetClearsAFault : Prop :=
  ∀ s t : State, s.err = true → step s = .next t → t.err = false ∨ t.cause ≠ s.cause →
    ∃ rest, s.host = .reset :: rest ∧ t.err = false ∧ t.cause = .none ∧ (∀ i, i < 25 → t.lanes.reg i = 0) ∧
      t.phase = .absorb ∧ t.mlen = 0 ∧ t.mptr = 0 ∧ t.olen = 0

/-- 10_state.md R38: the phase transitions of completing commands, and no others; a fault, a refusal, a host lane write
and a host MLEN write leave PHASE unchanged; reset gives ABSORB; in any other phase the absorb commands and SQUEEZE
fault BAD_PHASE. -/
def Obligations.PhaseTransitions : Prop :=
  (∀ (i : Instr) (s t : State), exec i s = .next t →
    (s.err = true ∨ t.err = true → t.phase = s.phase) ∧
    (s.err = false → t.err = false →
      match i with
      | .init => t.phase = .absorb
      | .hash => t.phase = .done
      | .absb => s.phase = .absorb ∧ t.phase = .absorb
      | .absf => s.phase = .absorb ∧ t.phase = .final
      | .absorb => s.phase = .absorb ∧ t.phase = .final
      | .squeeze _ => s.phase = .final ∧ t.phase = .done
      | _ => t.phase = s.phase)) ∧
  (∀ (s t : State) (i : Nat) (v : Word), perform (.writeLane i v) s = .next t → t.phase = s.phase) ∧
  (∀ (s t : State) (v : Word), perform (.writeCr 1 v) s = .next t → t.phase = s.phase) ∧
  (∀ s t : State, perform .reset s = .next t → t.phase = .absorb) ∧
  (∀ s : State, s.err = false → s.phase = .final ∨ s.phase = .done →
    exec .absb s = .next (s.setFault true .badPhase) ∧ exec .absf s = .next (s.setFault true .badPhase) ∧
    exec .absorb s = .next (s.setFault true .badPhase)) ∧
  (∀ (s : State) (len : BitVec 16), s.err = false → s.phase = .absorb ∨ s.phase = .done →
    exec (.squeeze len) s = .next (s.setFault true .badPhase))

/-- What no command writes: MLEN (10_state.md R30), MSG (20_memory.md R52), the platform, and the host's side; OUT is
written by SQUEEZE and HASH alone (R56); MPTR by INIT, ABSB, ABSF, ABSORB, HASH and OLEN by INIT, SQUEEZE, HASH alone
(R28); no command clears ERR (R34). -/
def Obligations.WhatCommandsLeaveAlone : Prop :=
  ∀ (i : Instr) (s t : State), exec i s = .next t →
    t.mlen = s.mlen ∧ (∀ a, t.msg.read? a = s.msg.read? a) ∧ t.platform = s.platform ∧ t.host = s.host ∧
    t.hostData = s.hostData ∧ t.freeTick = s.freeTick ∧
    (i ≠ .hash → (∀ len, i ≠ .squeeze len) → ∀ a, t.out.read? a = s.out.read? a) ∧
    (i.datapath = true ∨ (∃ len, i = .squeeze len) → t.mptr = s.mptr) ∧
    (i.datapath = true ∨ i = .absb ∨ i = .absf ∨ i = .absorb → t.olen = s.olen) ∧
    (s.err = true → t.err = true)

/-- 10_state.md R31: every absorb command that completes leaves MPTR <= MLEN; ABSB adds 136, ABSF and ABSORB set it to
MLEN. -/
def Obligations.MptrStaysWithinMlen : Prop :=
  ∀ (i : Instr) (s t : State), s.err = false → exec i s = .next t → t.err = false →
    (i = .absb → t.mptr.toNat = s.mptr.toNat + 136 ∧ t.mptr.toNat ≤ t.mlen.toNat) ∧
    (i = .absf ∨ i = .absorb → t.mptr = s.mlen ∧ t.mptr.toNat ≤ t.mlen.toNat ∧ s.mptr.toNat ≤ s.mlen.toNat)

/-! ### State, host access and reset -/

/-- 10_state.md R23: the byte view: byte `8*i + k` is bits `8k+7 .. 8k` of lane `i`; a lane is the little-endian sum of
its eight bytes; writing a byte replaces that byte and leaves the other bits of its lane and every other lane. -/
def Obligations.ByteViewIsLittleEndian : Prop :=
  ∀ A : Lanes,
    (∀ i k, i < 25 → k < 8 → A.byte (8 * i + k) = (A.reg i).extractLsb' (8 * k) 8) ∧
    (∀ i, i < 25 → (A.reg i).toNat = ((List.range 8).map fun k => (A.byte (8 * i + k)).toNat * 2 ^ (8 * k)).sum) ∧
    (∀ i k v, i < 25 → k < 8 →
      (A.setByte (8 * i + k) v).byte (8 * i + k) = v ∧
      (∀ n, n < 200 → n ≠ 8 * i + k → (A.setByte (8 * i + k) v).byte n = A.byte n) ∧
      (∀ j, j < 25 → j ≠ i → (A.setByte (8 * i + k) v).reg j = A.reg j) ∧
      (∀ b, b < 64 → (b < 8 * k ∨ 8 * k + 8 ≤ b) → ((A.setByte (8 * i + k) v).reg i).getLsbD b = (A.reg i).getLsbD b))

/-- 10_state.md R22: the host reads and writes any lane in any phase and whatever ERR holds; a write changes that lane
and nothing else, a read changes no state of the machine; an index above 24 is refused (log 9). -/
def Obligations.HostLaneAccess : Prop :=
  ∀ (s : State) (i : Nat) (v : Word),
    (i < 25 → perform (.readLane i) s = .next { s with hostData := s.lanes.reg i }) ∧
    (i < 25 → ∃ A : Lanes, perform (.writeLane i v) s = .next { s with lanes := A } ∧ A.reg i = v ∧
      ∀ j, j < 25 → j ≠ i → A.reg j = s.lanes.reg j) ∧
    (25 ≤ i → perform (.readLane i) s = .refused .noSuchLane ∧ perform (.writeLane i v) s = .refused .noSuchLane)

/-- 10_state.md R28: host access to the control registers: CR0 STATUS, CR1 MLEN, CR2 MPTR, CR3 OLEN zero-extended; a
write replaces MLEN and is ignored for the others; any other number is refused (log 9). -/
def Obligations.HostRegisterAccess : Prop :=
  ∀ (s : State) (n : Nat) (v : Word),
    perform (.readCr 0) s = .next { s with hostData := s.statusWord.setWidth 64 } ∧
    perform (.readCr 1) s = .next { s with hostData := s.mlen } ∧
    perform (.readCr 2) s = .next { s with hostData := s.mptr } ∧
    perform (.readCr 3) s = .next { s with hostData := s.olen.setWidth 64 } ∧
    perform (.writeCr 1 v) s = .next { s with mlen := v } ∧
    perform (.writeCr 0 v) s = .next s ∧ perform (.writeCr 2 v) s = .next s ∧ perform (.writeCr 3 v) s = .next s ∧
    (4 ≤ n → perform (.readCr n) s = .refused .noSuchControlRegister ∧
      perform (.writeCr n v) s = .refused .noSuchControlRegister)

/-- 10_state.md R29: the fields of STATUS: PHASE in bits 1:0, ERR in bit 2, CAUSE in bits 7:4, every other bit reads 0;
after a SQUEEZE in phase ABSORB with no fault recorded STATUS is 0x34. -/
def Obligations.StatusWordFields : Prop :=
  (∀ s : State,
    (s.statusWord.extractLsb' 0 2).toNat = (match s.phase with | .absorb => 0 | .final => 1 | .done => 2) ∧
    s.statusWord.getLsbD 2 = s.err ∧ s.statusWord.getLsbD 3 = false ∧
    (s.statusWord.extractLsb' 4 4).toNat =
      (match s.cause with
        | .none => 0 | .illegalCmd => 1 | .badOperand => 2 | .badPhase => 3 | .badLength => 4 | .msgAccess => 5
        | .outAccess => 6) ∧
    s.statusWord.extractLsb' 8 24 = 0) ∧
  (∀ (s : State) (len : BitVec 16), s.err = false → s.phase = .absorb →
    ∃ t : State, exec (.squeeze len) s = .next t ∧ t.statusWord = 0x00000034)

/-- 20_memory.md R52: after HostMsgWrite(a, v) the engine reads `v` at `a` and every other byte of MSG as before, and
nothing else changes; a read of bytes is refused exactly when one of them is not backed, and then the host cannot write
it either (log 9). -/
def Obligations.MessageMemory : Prop :=
  (∀ (s : State) (a : Word) (v : Byte), s.msgBacked a.toNat = true →
    ∃ t : State, perform (.writeMsg a v) s = .next t ∧ t = { s with msg := t.msg } ∧ t.msgByte a.toNat = v ∧
      ∀ b, b ≠ a.toNat → t.msgByte b = s.msgByte b) ∧
  (∀ (s : State) (a : Word) (v : Byte), s.msgBacked a.toNat = false →
    perform (.writeMsg a v) s = .refused .msgAddressNotBacked) ∧
  (∀ (s : State) (a n : Nat), (s.readMsg a n = none ↔ ∃ i, i < n ∧ s.msgBacked (a + i) = false) ∧
    ∀ d, s.readMsg a n = some d → d = (List.range n).map fun i => s.msgByte (a + i))

/-- 20_memory.md R53, R58: HostOutRead returns the byte a completed SQUEEZE or HASH wrote and changes nothing else;
where a byte has no defined value it completes all the same, whatever value it returns (log 5); OUT ends at address 65534 (log 9). -/
def Obligations.OutputMemory : Prop :=
  (∀ (s : State) (a : Nat) (v : Byte), a < 65535 → s.out.read? a = some v →
    perform (.readOut a) s = .next { s with hostData := v.setWidth 64 }) ∧
  (∀ (s : State) (a : Nat), a < 65535 → s.out.read? a = none →
    ∃ v : Byte, perform (.readOut a) s = .next { s with hostData := v.setWidth 64, freeTick := s.freeTick + 1 }) ∧
  (∀ (s : State) (a : Nat), 65535 ≤ a → perform (.readOut a) s = .fault .outAddressOutsideSpace)

/-- 10_state.md R36: the values after reset. -/
def Obligations.ResetValues : Prop :=
  (∀ i, i < 25 → State.reset.lanes.reg i = 0) ∧ State.reset.phase = .absorb ∧ State.reset.err = false ∧
  State.reset.cause = .none ∧ State.reset.mlen = 0 ∧ State.reset.mptr = 0 ∧ State.reset.olen = 0 ∧
  State.reset.statusWord = 0x00000000

/-- 70_reset_and_hazards.md R200: HostReset, from any state, zeroes all 25 lanes and all four registers, clears the
fault, and does not touch MSG or OUT. -/
def Obligations.HostResetZeroesTheEngine : Prop :=
  ∀ s : State, ∃ t : State, perform .reset s = .next t ∧ (∀ i, i < 25 → t.lanes.reg i = 0) ∧ t.statusWord = 0 ∧
    t.phase = .absorb ∧ t.err = false ∧ t.cause = .none ∧ t.mlen = 0 ∧ t.mptr = 0 ∧ t.olen = 0 ∧
    (∀ a, t.msg.read? a = s.msg.read? a) ∧ (∀ a, t.out.read? a = s.out.read? a) ∧
    t.platform = s.platform ∧ t.host = s.host ∧ t.hostData = s.hostData ∧ t.freeTick = s.freeTick

/-- The invariant holds after reset (of what no rule gives: logs 3 and 5). -/
def Obligations.InvariantAtReset : Prop := State.reset.Inv

/-- Every step keeps the invariant: CAUSE is 0 exactly when ERR is 0 (U5); OLEN is 0 before an output exists; with no
fault recorded OUT[0 .. OLEN-1] hold defined bytes; both memories stay in canonical form and hold nothing at an address
that is not backed. -/
def Obligations.EveryStepKeepsTheInvariant : Prop :=
  ∀ s t : State, s.Inv → step s = .next t → t.Inv

/-! ### Digest formatting -/

/-- 42_digest_format.md R161: byte `j` gives the characters `2j` and `2j+1`, its high four bits first, from the printed
digits, and no others. R163: hex decoded gives the raw bytes back, for every message (and every byte string); the hex
digest has exactly 64 characters, all of them lowercase hex digits; no text of 63 characters decodes (log 14). -/
def Obligations.HexRoundTrip : Prop :=
  (∀ out : List Byte, (hexDigest out).length = 2 * out.length ∧
    ∀ (j : Nat) (h : j < out.length),
      let digits := ['0', '1', '2', '3', '4', '5', '6', '7', '8', '9', 'a', 'b', 'c', 'd', 'e', 'f']
      (hexDigest out)[2 * j]? = digits[(out[j] >>> 4).toNat]? ∧
      (hexDigest out)[2 * j + 1]? = digits[(out[j] &&& 0x0F).toNat]?) ∧
  (∀ bs : List Byte, hexDecode (hexDigest bs) = some (rawDigest bs)) ∧
  (∀ m : List Byte, hexDecode (hashHex m) = some (hashOf m) ∧ (hashHex m).length = 64 ∧
    ∀ c ∈ hashHex m, ('0' ≤ c ∧ c ≤ '9') ∨ ('a' ≤ c ∧ c ≤ 'f')) ∧
  (∀ t : List Char, t.length = 63 → hexDecode t = none)
end

