-- ==== Sys2Proof/Laws/Config.lean ====
section
/-! SUPPORT. The fixed parameters as numbers (00_scope.md R8, 20_memory.md R50). -/

namespace Sys2Proof

@[simp] theorem Config.rateBytes_eq : Config.rateBytes = 136 := rfl
@[simp] theorem Config.suffix_eq : Config.suffix = 0x01 := rfl
@[simp] theorem Config.padBit_eq : Config.padBit = 0x80 := rfl
@[simp] theorem Config.digestBytes_eq : Config.digestBytes = 32 := rfl
@[simp] theorem Config.lfsrSeed_eq : Config.lfsrSeed = 0x01 := rfl
@[simp] theorem Config.lfsrPoly_eq : Config.lfsrPoly = 0x71 := rfl
@[simp] theorem Config.msgSpace_eq : Config.msgSpace = 18446744073709551616 := rfl
@[simp] theorem Config.outSpace_eq : Config.outSpace = 65535 := rfl

end Sys2Proof
end

