-- ==== Sys2Proof/Laws/Decode.lean ====
section
/-! SUPPORT. The three fields of a command word. -/

namespace Sys2Proof

/-- The bits of a word, field by field. -/
theorem getLsbD_commandWord (op a : BitVec 8) (b : BitVec 16) (j : Nat) :
    (commandWord op a b).getLsbD j =
      if j < 16 then b.getLsbD j else if j < 24 then a.getLsbD (j - 16) else op.getLsbD (j - 24) := by
  simp only [commandWord, BitVec.getLsbD_or, BitVec.getLsbD_shiftLeft, BitVec.getLsbD_setWidth]
  by_cases h1 : j < 16
  · simp [h1, show j < 24 by omega, show j < 32 by omega]
  · have hb : b.getLsbD j = false := BitVec.getLsbD_of_ge b j (by omega)
    by_cases h2 : j < 24
    · simp [h1, h2, hb, show j < 32 by omega, show j - 16 < 32 by omega]
    · have ha : a.getLsbD (j - 16) = false := BitVec.getLsbD_of_ge a _ (by omega)
      by_cases h3 : j < 32
      · simp [h1, h2, hb, ha, h3, show j - 24 < 32 by omega]
      · have ho : op.getLsbD (j - 24) = false := BitVec.getLsbD_of_ge op _ (by omega)
        simp [h1, h2, hb, ha, ho]

theorem getLsbD_opField (W : Command) (j : Nat) : (opField W).getLsbD j = (decide (j < 8) && W.getLsbD (24 + j)) := by
  simp [opField, BitVec.getLsbD_extractLsb']

theorem getLsbD_aField (W : Command) (j : Nat) : (aField W).getLsbD j = (decide (j < 8) && W.getLsbD (16 + j)) := by
  simp [aField, BitVec.getLsbD_extractLsb']

theorem getLsbD_bField (W : Command) (j : Nat) : (bField W).getLsbD j = (decide (j < 16) && W.getLsbD j) := by
  simp [bField, BitVec.getLsbD_extractLsb']

@[simp] theorem opField_commandWord (op a : BitVec 8) (b : BitVec 16) : opField (commandWord op a b) = op := by
  apply BitVec.eq_of_getLsbD_eq
  intro j hj
  rw [getLsbD_opField, getLsbD_commandWord, if_neg (by omega), if_neg (by omega)]
  simp [hj]

@[simp] theorem aField_commandWord (op a : BitVec 8) (b : BitVec 16) : aField (commandWord op a b) = a := by
  apply BitVec.eq_of_getLsbD_eq
  intro j hj
  rw [getLsbD_aField, getLsbD_commandWord, if_neg (by omega), if_pos (by omega)]
  simp [hj]

@[simp] theorem bField_commandWord (op a : BitVec 8) (b : BitVec 16) : bField (commandWord op a b) = b := by
  apply BitVec.eq_of_getLsbD_eq
  intro j hj
  rw [getLsbD_bField, getLsbD_commandWord, if_pos hj]
  simp [hj]

/-- A word is its three fields (30_encoding.md R80). -/
theorem commandWord_fields (W : Command) : commandWord (opField W) (aField W) (bField W) = W := by
  apply BitVec.eq_of_getLsbD_eq
  intro j hj
  rw [getLsbD_commandWord, getLsbD_opField, getLsbD_aField, getLsbD_bField]
  by_cases h1 : j < 16
  · simp [h1]
  · by_cases h2 : j < 24
    · simp [h1, h2, show j - 16 < 8 by omega, show 16 + (j - 16) = j by omega]
    · simp [h1, h2, show j - 24 < 8 by omega, show 24 + (j - 24) = j by omega]

/-- Masking a word masks its fields. -/
theorem commandWord_and (op a op' a' : BitVec 8) (b b' : BitVec 16) :
    commandWord op a b &&& commandWord op' a' b' = commandWord (op &&& op') (a &&& a') (b &&& b') := by
  apply BitVec.eq_of_getLsbD_eq
  intro j hj
  simp only [BitVec.getLsbD_and, getLsbD_commandWord]
  by_cases h1 : j < 16
  · simp [h1]
  · by_cases h2 : j < 24 <;> simp [h1, h2]

/-- Two words are equal when their fields are. -/
theorem commandWord_inj {op a op' a' : BitVec 8} {b b' : BitVec 16} :
    commandWord op a b = commandWord op' a' b' ↔ op = op' ∧ a = a' ∧ b = b' := by
  constructor
  · intro h
    exact ⟨by simpa using congrArg opField h, by simpa using congrArg aField h, by simpa using congrArg bField h⟩
  · rintro ⟨rfl, rfl, rfl⟩; rfl

theorem tableWord_toNat (W : Command) : tableWord 32 W.toNat = W := by
  apply BitVec.eq_of_toNat_eq
  simp only [tableWord, BitVec.toNat_ofNat]
  have := W.isLt
  omega

end Sys2Proof
end

