-- ==== Sys2Proof/Laws/Lanes.lean ====
section
/-! SUPPORT. The two views of the 1600-bit state: lanes by coordinates, lanes by index, bytes. -/

namespace Sys2Proof

theorem Lanes.reg_of_lt (A : Lanes) {i : Nat} (h : i < 25) : A.reg i = A[i] := by
  simp [Lanes.reg, h]

/-- `L[i] = A[i mod 5][i div 5]` (10_state.md R21), from the coordinates' side. -/
theorem Lanes.xy_eq_reg (A : Lanes) (x y : Fin 5) : A.xy x y = A.reg (x.val + 5 * y.val) := by
  rw [Lanes.reg_of_lt A (by omega)]; rfl

theorem Lanes.reg_eq_xy (A : Lanes) {i : Nat} (h : i < 25) : A.reg i = A.xy ⟨i % 5, by omega⟩ ⟨i / 5, by omega⟩ := by
  rw [Lanes.xy_eq_reg]; congr 1; simp only; omega

/-- Two lane arrays with the same lanes are equal. -/
theorem Lanes.ext_reg {A B : Lanes} (h : ∀ i, i < 25 → A.reg i = B.reg i) : A = B := by
  apply Vector.ext
  intro i hi
  have := h i hi
  rwa [Lanes.reg_of_lt _ hi, Lanes.reg_of_lt _ hi] at this

theorem Lanes.ext_xy {A B : Lanes} (h : ∀ x y, A.xy x y = B.xy x y) : A = B :=
  Lanes.ext_reg fun i hi => by rw [Lanes.reg_eq_xy A hi, Lanes.reg_eq_xy B hi, h]

@[simp] theorem Lanes.xy_ofXY (f : Fin 5 → Fin 5 → Word) (x y : Fin 5) : (Lanes.ofXY f).xy x y = f x y := by
  simp only [Lanes.xy, Lanes.ofXY, Vector.getElem_ofFn]
  congr 1 <;> apply Fin.ext <;> simp only <;> omega

@[simp] theorem Lanes.reg_zero (i : Nat) : Lanes.zero.reg i = 0 := by
  by_cases h : i < 25
  · rw [Lanes.reg_of_lt _ h]; simp [Lanes.zero]
  · simp [Lanes.reg, h]

theorem Lanes.reg_setReg (A : Lanes) {i : Nat} (h : i < 25) (v : Word) (j : Nat) :
    (A.setReg i v).reg j = if j = i then v else A.reg j := by
  simp only [Lanes.reg, Lanes.setReg, Vector.getElem?_setIfInBounds]
  by_cases hj : j = i
  · subst hj; simp [h]
  · simp [hj, Ne.symm hj]

/-- Lanes written one after the other, at places of which none is `j`, leave lane `j`. -/
theorem Lanes.reg_foldl_setReg_ne (ts : List Nat) (f : Nat → Nat) (g : Nat → Word) (A : Lanes) (j : Nat)
    (hf : ∀ t ∈ ts, f t < 25) (hj : ∀ t ∈ ts, f t ≠ j) :
    (ts.foldl (fun B t => B.setReg (f t) (g t)) A).reg j = A.reg j := by
  induction ts generalizing A with
  | nil => rfl
  | cons t ts ih =>
    rw [List.foldl_cons, ih _ (fun u hu => hf u (List.mem_cons_of_mem _ hu)) (fun u hu => hj u (List.mem_cons_of_mem _ hu)),
      Lanes.reg_setReg A (hf t List.mem_cons_self), if_neg (Ne.symm (hj t List.mem_cons_self))]

/-- Lanes written one after the other at distinct places each end with what was written to them. -/
theorem Lanes.reg_foldl_setReg (ts : List Nat) (f : Nat → Nat) (g : Nat → Word) (A : Lanes)
    (hf : ∀ t ∈ ts, f t < 25) (hn : (ts.map f).Nodup) (t : Nat) (ht : t ∈ ts) :
    (ts.foldl (fun B t => B.setReg (f t) (g t)) A).reg (f t) = g t := by
  induction ts generalizing A with
  | nil => cases ht
  | cons u ts ih =>
    rw [List.map_cons, List.nodup_cons] at hn
    rw [List.foldl_cons]
    rcases List.mem_cons.1 ht with rfl | ht
    · rw [Lanes.reg_foldl_setReg_ne ts f g _ (f t) (fun v hv => hf v (List.mem_cons_of_mem _ hv))
        (fun v hv h => hn.1 (h ▸ List.mem_map_of_mem hv)), Lanes.reg_setReg A (hf t List.mem_cons_self), if_pos rfl]
    · exact ih _ (fun v hv => hf v (List.mem_cons_of_mem _ hv)) hn.2 ht

/-- `S[8*i + k] = L[i][8*k+7 : 8*k]` (10_state.md R23), bit by bit. -/
theorem Lanes.getLsbD_byte (A : Lanes) (k j : Nat) :
    (A.byte k).getLsbD j = (decide (j < 8) && (A.reg (k / 8)).getLsbD (8 * (k % 8) + j)) := by
  simp [Lanes.byte, BitVec.getLsbD_extractLsb']

/-- The bits of the mask `0xFF`. -/
theorem getLsbD_byteMask (n : Nat) : (0xFF : Word).getLsbD n = decide (n < 8) := by
  by_cases hn : n < 64
  · revert n; decide
  · have : ¬ n < 8 := by omega
    rw [BitVec.getLsbD_of_ge _ _ (Nat.le_of_not_lt hn), decide_eq_false this]

/-- The bits of a lane after a byte of it is replaced (10_state.md R23: the other 56 bits stay). -/
theorem Lanes.getLsbD_reg_setByte (A : Lanes) {k : Nat} (h : k < 200) (v : Byte) (i j : Nat) :
    ((A.setByte k v).reg i).getLsbD j =
      if i = k / 8 ∧ 8 * (k % 8) ≤ j ∧ j < 8 * (k % 8) + 8 then v.getLsbD (j - 8 * (k % 8))
      else (A.reg i).getLsbD j := by
  simp only [Lanes.setByte]
  rw [Lanes.reg_setReg A (by omega)]
  by_cases hi : i = k / 8
  · subst hi
    simp only [if_true, true_and, BitVec.getLsbD_or, BitVec.getLsbD_and, BitVec.getLsbD_not,
      BitVec.getLsbD_shiftLeft, BitVec.getLsbD_setWidth, getLsbD_byteMask]
    by_cases h64 : j < 64
    · by_cases hr : 8 * (k % 8) ≤ j ∧ j < 8 * (k % 8) + 8
      · simp [h64, hr, show ¬ j < 8 * (k % 8) by omega, show j - 8 * (k % 8) < 64 by omega,
          show j - 8 * (k % 8) < 8 by omega]
      · by_cases h1 : j < 8 * (k % 8)
        · simp [h64, hr, h1]
        · have : 8 ≤ j - 8 * (k % 8) := by omega
          simp [h64, hr, h1, BitVec.getLsbD_of_ge v _ this, show ¬ j - 8 * (k % 8) < 8 by omega]
    · have : ¬ (8 * (k % 8) ≤ j ∧ j < 8 * (k % 8) + 8) := by omega
      rw [if_neg this]
      simp [h64, BitVec.getLsbD_of_ge _ _ (Nat.le_of_not_lt h64)]
  · simp [hi]

/-- `S[k] <- v` (10_state.md R23): byte `k` becomes `v` and no other byte changes. -/
theorem Lanes.byte_setByte (A : Lanes) {k : Nat} (h : k < 200) (v : Byte) (n : Nat) :
    (A.setByte k v).byte n = if n = k then v else A.byte n := by
  apply BitVec.eq_of_getLsbD_eq
  intro j hj
  rw [Lanes.getLsbD_byte, Lanes.getLsbD_reg_setByte A h]
  by_cases hn : n = k
  · subst hn
    simp [hj]
  · have : ¬ (n / 8 = k / 8 ∧ 8 * (k % 8) ≤ 8 * (n % 8) + j ∧ 8 * (n % 8) + j < 8 * (k % 8) + 8) := by omega
    rw [if_neg this, if_neg hn, Lanes.getLsbD_byte]

theorem Lanes.byte_xorByte (A : Lanes) {k : Nat} (h : k < 200) (v : Byte) (n : Nat) :
    (A.xorByte k v).byte n = if n = k then A.byte n ^^^ v else A.byte n := by
  rw [Lanes.xorByte, Lanes.byte_setByte A h]
  by_cases hn : n = k <;> simp [hn]

/-- Two lane arrays with the same 200 bytes are equal. -/
theorem Lanes.ext_byte {A B : Lanes} (h : ∀ k, k < 200 → A.byte k = B.byte k) : A = B := by
  apply Lanes.ext_reg
  intro i hi
  apply BitVec.eq_of_getLsbD_eq
  intro j hj
  have hk := congrArg (fun b : Byte => b.getLsbD (j % 8)) (h (8 * i + j / 8) (by omega))
  simp only [Lanes.getLsbD_byte, show (8 * i + j / 8) / 8 = i by omega,
    show 8 * ((8 * i + j / 8) % 8) + j % 8 = j by omega, show j % 8 < 8 by omega, decide_true, Bool.true_and] at hk
  exact hk

@[simp] theorem Lanes.length_front (A : Lanes) (n : Nat) : (A.front n).length = n := by simp [Lanes.front]

theorem Lanes.getElem?_front (A : Lanes) (n k : Nat) : (A.front n)[k]? = if k < n then some (A.byte k) else none := by
  by_cases h : k < n <;> simp [Lanes.front, h]

theorem rol64_zero (a : Word) : rol64 a 0 = a := rfl

/-- Bit `i` of `a` becomes bit `(i + n) mod 64` of the result (00_scope.md R11). -/
theorem getLsbD_rol64 (a : Word) {n : Nat} (hn : n < 64) {i : Nat} (hi : i < 64) :
    (rol64 a n).getLsbD ((i + n) % 64) = a.getLsbD i := by
  unfold rol64
  by_cases h0 : n = 0
  · simp [h0, Nat.mod_eq_of_lt hi]
  · simp only [h0, if_false, BitVec.getLsbD_or, BitVec.getLsbD_shiftLeft, BitVec.getLsbD_ushiftRight]
    by_cases hw : i + n < 64
    · rw [Nat.mod_eq_of_lt hw]
      have : 64 ≤ 64 - n + (i + n) := by omega
      simp [hw, BitVec.getLsbD_of_ge a _ this]
    · have hm : (i + n) % 64 = i + n - 64 := by omega
      rw [hm]
      have h1 : i + n - 64 < n := by omega
      have h2 : 64 - n + (i + n - 64) = i := by omega
      simp [h1, h2]

end Sys2Proof
end

