-- ==== Sys2Proof/Laws/Sponge.lean ====
section
/-! SUPPORT. The sponge functions: XOR-in byte by byte, the absorb loop block by block, the length of what is squeezed. -/

namespace Sys2Proof

theorem byte_xorinFrom (d : List Byte) (k : Nat) (A : Lanes) (h : k + d.length ≤ 200) (n : Nat) :
    (xorinFrom k A d).byte n = if k ≤ n then A.byte n ^^^ (d[n - k]?).getD 0 else A.byte n := by
  induction d generalizing k A with
  | nil => simp [xorinFrom]
  | cons b bs ih =>
    simp only [List.length_cons] at h
    rw [xorinFrom, ih (k + 1) _ (by omega), Lanes.byte_xorByte A (by omega)]
    by_cases h1 : n = k
    · simp [h1]
    · by_cases h2 : k ≤ n
      · have : n - k = (n - (k + 1)) + 1 := by omega
        simp [h1, h2, this, show k + 1 ≤ n by omega]
      · simp [h1, h2, show ¬ k + 1 ≤ n by omega]

@[simp] theorem xorin_nil (A : Lanes) : xorin A [] = A := rfl

@[simp] theorem absorbBlocks_zero (A : Lanes) (m : List Byte) : absorbBlocks 0 A m = A := rfl

theorem absorbBlocks_succ (n : Nat) (A : Lanes) (m : List Byte) :
    absorbBlocks (n + 1) A m = absorbBlocks n (permute (xorin A (m.take 136))) (m.drop 136) := rfl

/-- With one full block left, absorbing is one turn of the loop and then absorbing the rest. -/
theorem absorbFrom_block (A : Lanes) (m : List Byte) (h : 136 ≤ m.length) :
    absorbFrom A m = absorbFrom (permute (xorin A (m.take 136))) (m.drop 136) := by
  have hd : m.length / 136 = (m.length - 136) / 136 + 1 := by omega
  simp only [absorbFrom, Config.rateBytes_eq, List.length_drop, List.drop_drop]
  rw [hd, absorbBlocks_succ, show 136 + (m.length - 136) / 136 * 136 = ((m.length - 136) / 136 + 1) * 136 by omega]

/-- With less than a block left, absorbing is the remainder and the padding. -/
theorem absorbFrom_remainder (A : Lanes) (m : List Byte) (h : m.length < 136) :
    absorbFrom A m = pad (xorin A m) m.length := by
  simp [absorbFrom, Nat.div_eq_of_lt h]

/-- The squeeze loop, unfolded once: a last, possibly short block, or a full block and the loop on the permuted lanes. -/
theorem squeezeLoop_last (fuel : Nat) (A : Lanes) (rem : Nat) (h : rem ≤ 136) :
    squeezeLoop (fuel + 1) A rem = (A.front rem, A) := by
  simp [squeezeLoop, Nat.min_eq_left h]

theorem squeezeLoop_block (fuel : Nat) (A : Lanes) (rem : Nat) (h : 136 < rem) :
    squeezeLoop (fuel + 1) A rem =
      (A.front 136 ++ (squeezeLoop fuel (permute A) (rem - 136)).1, (squeezeLoop fuel (permute A) (rem - 136)).2) := by
  simp [squeezeLoop, Nat.min_eq_right (Nat.le_of_lt h), show rem - 136 ≠ 0 by omega]

theorem length_squeezeLoop (fuel : Nat) (A : Lanes) (rem : Nat) (h : rem < fuel * 136 + 1) (hf : 0 < fuel) :
    (squeezeLoop fuel A rem).1.length = rem := by
  induction fuel generalizing A rem with
  | zero => omega
  | succ fuel ih =>
    by_cases hr : rem ≤ 136
    · simp [squeezeLoop_last fuel A rem hr]
    · have hf' : 0 < fuel := by omega
      rw [squeezeLoop_block fuel A rem (by omega)]
      simp only [List.length_append, Lanes.length_front, ih (permute A) (rem - 136) (by omega) hf']
      omega

/-- A squeeze of `L` gives `L` bytes. -/
@[simp] theorem length_squeeze (A : Lanes) (len : Nat) : (squeeze A len).1.length = len :=
  length_squeezeLoop _ A len (show len < (len / 136 + 1) * 136 + 1 by omega) (Nat.succ_pos _)

/-- With the hardwired suffix, padding performs exactly one permutation (41_sponge.md R134). -/
theorem pad_eq (A : Lanes) (q : Nat) : pad A q = permute ((A.xorByte q 0x01).xorByte 135 0x80) := by
  have h : (0x01 : Byte).getLsbD 7 = false := by decide
  simp only [pad, padWith, Config.suffix_eq, Config.rateBytes_eq, Config.padBit_eq, h, Bool.false_eq_true, and_false,
    if_false, Nat.add_one_sub_one]

end Sys2Proof
end

