-- ==== Sys2Proof/Laws/Digest.lean ====
section
/-! SUPPORT. The digest functions: lengths, and one hex digit at a time. -/

namespace Sys2Proof

@[simp] theorem length_hashOf (m : List Byte) : (hashOf m).length = 32 := by simp [hashOf]

@[simp] theorem length_hexDigest (bs : List Byte) : (hexDigest bs).length = 2 * bs.length := by
  induction bs with
  | nil => rfl
  | cons b bs ih => simp only [hexDigest, List.length_cons, ih]; omega

/-- A digit read back is the value it was written for. -/
theorem hexValue?_hexDigit {v : Nat} (h : v < 16) : hexValue? (hexDigit v) = some v := by
  revert v; decide

theorem hexDigit_mem {v : Nat} (h : v < 16) : hexDigit v ∈ hexDigits := by
  revert v; decide

end Sys2Proof
end

