-- ==== Sys2Proof/Laws/State.lean ====
section
/-! SUPPORT. One lemma per field per update of State, each true by rfl, so that no later proof unfolds an update. -/

namespace Sys2Proof.Machine

@[simp] theorem State.setLanes_lanes (s : State) (A : Lanes) : (s.setLanes A).lanes = A := rfl
@[simp] theorem State.setLanes_phase (s : State) (A : Lanes) : (s.setLanes A).phase = s.phase := rfl
@[simp] theorem State.setLanes_err (s : State) (A : Lanes) : (s.setLanes A).err = s.err := rfl
@[simp] theorem State.setLanes_cause (s : State) (A : Lanes) : (s.setLanes A).cause = s.cause := rfl
@[simp] theorem State.setLanes_mlen (s : State) (A : Lanes) : (s.setLanes A).mlen = s.mlen := rfl
@[simp] theorem State.setLanes_mptr (s : State) (A : Lanes) : (s.setLanes A).mptr = s.mptr := rfl
@[simp] theorem State.setLanes_olen (s : State) (A : Lanes) : (s.setLanes A).olen = s.olen := rfl
@[simp] theorem State.setLanes_msg (s : State) (A : Lanes) : (s.setLanes A).msg = s.msg := rfl
@[simp] theorem State.setLanes_out (s : State) (A : Lanes) : (s.setLanes A).out = s.out := rfl
@[simp] theorem State.setLanes_platform (s : State) (A : Lanes) : (s.setLanes A).platform = s.platform := rfl
@[simp] theorem State.setLanes_host (s : State) (A : Lanes) : (s.setLanes A).host = s.host := rfl
@[simp] theorem State.setLanes_hostData (s : State) (A : Lanes) : (s.setLanes A).hostData = s.hostData := rfl
@[simp] theorem State.setLanes_freeTick (s : State) (A : Lanes) : (s.setLanes A).freeTick = s.freeTick := rfl

@[simp] theorem State.setPhase_lanes (s : State) (p : Phase) : (s.setPhase p).lanes = s.lanes := rfl
@[simp] theorem State.setPhase_phase (s : State) (p : Phase) : (s.setPhase p).phase = p := rfl
@[simp] theorem State.setPhase_err (s : State) (p : Phase) : (s.setPhase p).err = s.err := rfl
@[simp] theorem State.setPhase_cause (s : State) (p : Phase) : (s.setPhase p).cause = s.cause := rfl
@[simp] theorem State.setPhase_mlen (s : State) (p : Phase) : (s.setPhase p).mlen = s.mlen := rfl
@[simp] theorem State.setPhase_mptr (s : State) (p : Phase) : (s.setPhase p).mptr = s.mptr := rfl
@[simp] theorem State.setPhase_olen (s : State) (p : Phase) : (s.setPhase p).olen = s.olen := rfl
@[simp] theorem State.setPhase_msg (s : State) (p : Phase) : (s.setPhase p).msg = s.msg := rfl
@[simp] theorem State.setPhase_out (s : State) (p : Phase) : (s.setPhase p).out = s.out := rfl
@[simp] theorem State.setPhase_platform (s : State) (p : Phase) : (s.setPhase p).platform = s.platform := rfl
@[simp] theorem State.setPhase_host (s : State) (p : Phase) : (s.setPhase p).host = s.host := rfl
@[simp] theorem State.setPhase_hostData (s : State) (p : Phase) : (s.setPhase p).hostData = s.hostData := rfl
@[simp] theorem State.setPhase_freeTick (s : State) (p : Phase) : (s.setPhase p).freeTick = s.freeTick := rfl

@[simp] theorem State.setFault_lanes (s : State) (e : Bool) (c : Cause) : (s.setFault e c).lanes = s.lanes := rfl
@[simp] theorem State.setFault_phase (s : State) (e : Bool) (c : Cause) : (s.setFault e c).phase = s.phase := rfl
@[simp] theorem State.setFault_err (s : State) (e : Bool) (c : Cause) : (s.setFault e c).err = e := rfl
@[simp] theorem State.setFault_cause (s : State) (e : Bool) (c : Cause) : (s.setFault e c).cause = c := rfl
@[simp] theorem State.setFault_mlen (s : State) (e : Bool) (c : Cause) : (s.setFault e c).mlen = s.mlen := rfl
@[simp] theorem State.setFault_mptr (s : State) (e : Bool) (c : Cause) : (s.setFault e c).mptr = s.mptr := rfl
@[simp] theorem State.setFault_olen (s : State) (e : Bool) (c : Cause) : (s.setFault e c).olen = s.olen := rfl
@[simp] theorem State.setFault_msg (s : State) (e : Bool) (c : Cause) : (s.setFault e c).msg = s.msg := rfl
@[simp] theorem State.setFault_out (s : State) (e : Bool) (c : Cause) : (s.setFault e c).out = s.out := rfl
@[simp] theorem State.setFault_platform (s : State) (e : Bool) (c : Cause) : (s.setFault e c).platform = s.platform := rfl
@[simp] theorem State.setFault_host (s : State) (e : Bool) (c : Cause) : (s.setFault e c).host = s.host := rfl
@[simp] theorem State.setFault_hostData (s : State) (e : Bool) (c : Cause) : (s.setFault e c).hostData = s.hostData := rfl
@[simp] theorem State.setFault_freeTick (s : State) (e : Bool) (c : Cause) : (s.setFault e c).freeTick = s.freeTick := rfl

@[simp] theorem State.setMlen_lanes (s : State) (v : Word) : (s.setMlen v).lanes = s.lanes := rfl
@[simp] theorem State.setMlen_phase (s : State) (v : Word) : (s.setMlen v).phase = s.phase := rfl
@[simp] theorem State.setMlen_err (s : State) (v : Word) : (s.setMlen v).err = s.err := rfl
@[simp] theorem State.setMlen_cause (s : State) (v : Word) : (s.setMlen v).cause = s.cause := rfl
@[simp] theorem State.setMlen_mlen (s : State) (v : Word) : (s.setMlen v).mlen = v := rfl
@[simp] theorem State.setMlen_mptr (s : State) (v : Word) : (s.setMlen v).mptr = s.mptr := rfl
@[simp] theorem State.setMlen_olen (s : State) (v : Word) : (s.setMlen v).olen = s.olen := rfl
@[simp] theorem State.setMlen_msg (s : State) (v : Word) : (s.setMlen v).msg = s.msg := rfl
@[simp] theorem State.setMlen_out (s : State) (v : Word) : (s.setMlen v).out = s.out := rfl
@[simp] theorem State.setMlen_platform (s : State) (v : Word) : (s.setMlen v).platform = s.platform := rfl
@[simp] theorem State.setMlen_host (s : State) (v : Word) : (s.setMlen v).host = s.host := rfl
@[simp] theorem State.setMlen_hostData (s : State) (v : Word) : (s.setMlen v).hostData = s.hostData := rfl
@[simp] theorem State.setMlen_freeTick (s : State) (v : Word) : (s.setMlen v).freeTick = s.freeTick := rfl

@[simp] theorem State.setMptr_lanes (s : State) (v : Word) : (s.setMptr v).lanes = s.lanes := rfl
@[simp] theorem State.setMptr_phase (s : State) (v : Word) : (s.setMptr v).phase = s.phase := rfl
@[simp] theorem State.setMptr_err (s : State) (v : Word) : (s.setMptr v).err = s.err := rfl
@[simp] theorem State.setMptr_cause (s : State) (v : Word) : (s.setMptr v).cause = s.cause := rfl
@[simp] theorem State.setMptr_mlen (s : State) (v : Word) : (s.setMptr v).mlen = s.mlen := rfl
@[simp] theorem State.setMptr_mptr (s : State) (v : Word) : (s.setMptr v).mptr = v := rfl
@[simp] theorem State.setMptr_olen (s : State) (v : Word) : (s.setMptr v).olen = s.olen := rfl
@[simp] theorem State.setMptr_msg (s : State) (v : Word) : (s.setMptr v).msg = s.msg := rfl
@[simp] theorem State.setMptr_out (s : State) (v : Word) : (s.setMptr v).out = s.out := rfl
@[simp] theorem State.setMptr_platform (s : State) (v : Word) : (s.setMptr v).platform = s.platform := rfl
@[simp] theorem State.setMptr_host (s : State) (v : Word) : (s.setMptr v).host = s.host := rfl
@[simp] theorem State.setMptr_hostData (s : State) (v : Word) : (s.setMptr v).hostData = s.hostData := rfl
@[simp] theorem State.setMptr_freeTick (s : State) (v : Word) : (s.setMptr v).freeTick = s.freeTick := rfl

@[simp] theorem State.setOlen_lanes (s : State) (v : BitVec 16) : (s.setOlen v).lanes = s.lanes := rfl
@[simp] theorem State.setOlen_phase (s : State) (v : BitVec 16) : (s.setOlen v).phase = s.phase := rfl
@[simp] theorem State.setOlen_err (s : State) (v : BitVec 16) : (s.setOlen v).err = s.err := rfl
@[simp] theorem State.setOlen_cause (s : State) (v : BitVec 16) : (s.setOlen v).cause = s.cause := rfl
@[simp] theorem State.setOlen_mlen (s : State) (v : BitVec 16) : (s.setOlen v).mlen = s.mlen := rfl
@[simp] theorem State.setOlen_mptr (s : State) (v : BitVec 16) : (s.setOlen v).mptr = s.mptr := rfl
@[simp] theorem State.setOlen_olen (s : State) (v : BitVec 16) : (s.setOlen v).olen = v := rfl
@[simp] theorem State.setOlen_msg (s : State) (v : BitVec 16) : (s.setOlen v).msg = s.msg := rfl
@[simp] theorem State.setOlen_out (s : State) (v : BitVec 16) : (s.setOlen v).out = s.out := rfl
@[simp] theorem State.setOlen_platform (s : State) (v : BitVec 16) : (s.setOlen v).platform = s.platform := rfl
@[simp] theorem State.setOlen_host (s : State) (v : BitVec 16) : (s.setOlen v).host = s.host := rfl
@[simp] theorem State.setOlen_hostData (s : State) (v : BitVec 16) : (s.setOlen v).hostData = s.hostData := rfl
@[simp] theorem State.setOlen_freeTick (s : State) (v : BitVec 16) : (s.setOlen v).freeTick = s.freeTick := rfl

@[simp] theorem State.setMsg_lanes (s : State) (m : Memory) : (s.setMsg m).lanes = s.lanes := rfl
@[simp] theorem State.setMsg_phase (s : State) (m : Memory) : (s.setMsg m).phase = s.phase := rfl
@[simp] theorem State.setMsg_err (s : State) (m : Memory) : (s.setMsg m).err = s.err := rfl
@[simp] theorem State.setMsg_cause (s : State) (m : Memory) : (s.setMsg m).cause = s.cause := rfl
@[simp] theorem State.setMsg_mlen (s : State) (m : Memory) : (s.setMsg m).mlen = s.mlen := rfl
@[simp] theorem State.setMsg_mptr (s : State) (m : Memory) : (s.setMsg m).mptr = s.mptr := rfl
@[simp] theorem State.setMsg_olen (s : State) (m : Memory) : (s.setMsg m).olen = s.olen := rfl
@[simp] theorem State.setMsg_msg (s : State) (m : Memory) : (s.setMsg m).msg = m := rfl
@[simp] theorem State.setMsg_out (s : State) (m : Memory) : (s.setMsg m).out = s.out := rfl
@[simp] theorem State.setMsg_platform (s : State) (m : Memory) : (s.setMsg m).platform = s.platform := rfl
@[simp] theorem State.setMsg_host (s : State) (m : Memory) : (s.setMsg m).host = s.host := rfl
@[simp] theorem State.setMsg_hostData (s : State) (m : Memory) : (s.setMsg m).hostData = s.hostData := rfl
@[simp] theorem State.setMsg_freeTick (s : State) (m : Memory) : (s.setMsg m).freeTick = s.freeTick := rfl

@[simp] theorem State.setOut_lanes (s : State) (m : Memory) : (s.setOut m).lanes = s.lanes := rfl
@[simp] theorem State.setOut_phase (s : State) (m : Memory) : (s.setOut m).phase = s.phase := rfl
@[simp] theorem State.setOut_err (s : State) (m : Memory) : (s.setOut m).err = s.err := rfl
@[simp] theorem State.setOut_cause (s : State) (m : Memory) : (s.setOut m).cause = s.cause := rfl
@[simp] theorem State.setOut_mlen (s : State) (m : Memory) : (s.setOut m).mlen = s.mlen := rfl
@[simp] theorem State.setOut_mptr (s : State) (m : Memory) : (s.setOut m).mptr = s.mptr := rfl
@[simp] theorem State.setOut_olen (s : State) (m : Memory) : (s.setOut m).olen = s.olen := rfl
@[simp] theorem State.setOut_msg (s : State) (m : Memory) : (s.setOut m).msg = s.msg := rfl
@[simp] theorem State.setOut_out (s : State) (m : Memory) : (s.setOut m).out = m := rfl
@[simp] theorem State.setOut_platform (s : State) (m : Memory) : (s.setOut m).platform = s.platform := rfl
@[simp] theorem State.setOut_host (s : State) (m : Memory) : (s.setOut m).host = s.host := rfl
@[simp] theorem State.setOut_hostData (s : State) (m : Memory) : (s.setOut m).hostData = s.hostData := rfl
@[simp] theorem State.setOut_freeTick (s : State) (m : Memory) : (s.setOut m).freeTick = s.freeTick := rfl

@[simp] theorem State.setHost_lanes (s : State) (ops : List HostOp) : (s.setHost ops).lanes = s.lanes := rfl
@[simp] theorem State.setHost_phase (s : State) (ops : List HostOp) : (s.setHost ops).phase = s.phase := rfl
@[simp] theorem State.setHost_err (s : State) (ops : List HostOp) : (s.setHost ops).err = s.err := rfl
@[simp] theorem State.setHost_cause (s : State) (ops : List HostOp) : (s.setHost ops).cause = s.cause := rfl
@[simp] theorem State.setHost_mlen (s : State) (ops : List HostOp) : (s.setHost ops).mlen = s.mlen := rfl
@[simp] theorem State.setHost_mptr (s : State) (ops : List HostOp) : (s.setHost ops).mptr = s.mptr := rfl
@[simp] theorem State.setHost_olen (s : State) (ops : List HostOp) : (s.setHost ops).olen = s.olen := rfl
@[simp] theorem State.setHost_msg (s : State) (ops : List HostOp) : (s.setHost ops).msg = s.msg := rfl
@[simp] theorem State.setHost_out (s : State) (ops : List HostOp) : (s.setHost ops).out = s.out := rfl
@[simp] theorem State.setHost_platform (s : State) (ops : List HostOp) : (s.setHost ops).platform = s.platform := rfl
@[simp] theorem State.setHost_host (s : State) (ops : List HostOp) : (s.setHost ops).host = ops := rfl
@[simp] theorem State.setHost_hostData (s : State) (ops : List HostOp) : (s.setHost ops).hostData = s.hostData := rfl
@[simp] theorem State.setHost_freeTick (s : State) (ops : List HostOp) : (s.setHost ops).freeTick = s.freeTick := rfl

@[simp] theorem State.setHostData_lanes (s : State) (v : Word) : (s.setHostData v).lanes = s.lanes := rfl
@[simp] theorem State.setHostData_phase (s : State) (v : Word) : (s.setHostData v).phase = s.phase := rfl
@[simp] theorem State.setHostData_err (s : State) (v : Word) : (s.setHostData v).err = s.err := rfl
@[simp] theorem State.setHostData_cause (s : State) (v : Word) : (s.setHostData v).cause = s.cause := rfl
@[simp] theorem State.setHostData_mlen (s : State) (v : Word) : (s.setHostData v).mlen = s.mlen := rfl
@[simp] theorem State.setHostData_mptr (s : State) (v : Word) : (s.setHostData v).mptr = s.mptr := rfl
@[simp] theorem State.setHostData_olen (s : State) (v : Word) : (s.setHostData v).olen = s.olen := rfl
@[simp] theorem State.setHostData_msg (s : State) (v : Word) : (s.setHostData v).msg = s.msg := rfl
@[simp] theorem State.setHostData_out (s : State) (v : Word) : (s.setHostData v).out = s.out := rfl
@[simp] theorem State.setHostData_platform (s : State) (v : Word) : (s.setHostData v).platform = s.platform := rfl
@[simp] theorem State.setHostData_host (s : State) (v : Word) : (s.setHostData v).host = s.host := rfl
@[simp] theorem State.setHostData_hostData (s : State) (v : Word) : (s.setHostData v).hostData = v := rfl
@[simp] theorem State.setHostData_freeTick (s : State) (v : Word) : (s.setHostData v).freeTick = s.freeTick := rfl

@[simp] theorem State.setFreeTick_lanes (s : State) (n : Nat) : (s.setFreeTick n).lanes = s.lanes := rfl
@[simp] theorem State.setFreeTick_phase (s : State) (n : Nat) : (s.setFreeTick n).phase = s.phase := rfl
@[simp] theorem State.setFreeTick_err (s : State) (n : Nat) : (s.setFreeTick n).err = s.err := rfl
@[simp] theorem State.setFreeTick_cause (s : State) (n : Nat) : (s.setFreeTick n).cause = s.cause := rfl
@[simp] theorem State.setFreeTick_mlen (s : State) (n : Nat) : (s.setFreeTick n).mlen = s.mlen := rfl
@[simp] theorem State.setFreeTick_mptr (s : State) (n : Nat) : (s.setFreeTick n).mptr = s.mptr := rfl
@[simp] theorem State.setFreeTick_olen (s : State) (n : Nat) : (s.setFreeTick n).olen = s.olen := rfl
@[simp] theorem State.setFreeTick_msg (s : State) (n : Nat) : (s.setFreeTick n).msg = s.msg := rfl
@[simp] theorem State.setFreeTick_out (s : State) (n : Nat) : (s.setFreeTick n).out = s.out := rfl
@[simp] theorem State.setFreeTick_platform (s : State) (n : Nat) : (s.setFreeTick n).platform = s.platform := rfl
@[simp] theorem State.setFreeTick_host (s : State) (n : Nat) : (s.setFreeTick n).host = s.host := rfl
@[simp] theorem State.setFreeTick_hostData (s : State) (n : Nat) : (s.setFreeTick n).hostData = s.hostData := rfl
@[simp] theorem State.setFreeTick_freeTick (s : State) (n : Nat) : (s.setFreeTick n).freeTick = n := rfl

@[simp] theorem State.finalize_lanes (s : State) (A : Lanes) : (s.finalize A).lanes = A := rfl
@[simp] theorem State.finalize_phase (s : State) (A : Lanes) : (s.finalize A).phase = .final := rfl
@[simp] theorem State.finalize_err (s : State) (A : Lanes) : (s.finalize A).err = s.err := rfl
@[simp] theorem State.finalize_cause (s : State) (A : Lanes) : (s.finalize A).cause = s.cause := rfl
@[simp] theorem State.finalize_mlen (s : State) (A : Lanes) : (s.finalize A).mlen = s.mlen := rfl
@[simp] theorem State.finalize_mptr (s : State) (A : Lanes) : (s.finalize A).mptr = s.mlen := rfl
@[simp] theorem State.finalize_olen (s : State) (A : Lanes) : (s.finalize A).olen = s.olen := rfl
@[simp] theorem State.finalize_msg (s : State) (A : Lanes) : (s.finalize A).msg = s.msg := rfl
@[simp] theorem State.finalize_out (s : State) (A : Lanes) : (s.finalize A).out = s.out := rfl
@[simp] theorem State.finalize_platform (s : State) (A : Lanes) : (s.finalize A).platform = s.platform := rfl
@[simp] theorem State.finalize_host (s : State) (A : Lanes) : (s.finalize A).host = s.host := rfl
@[simp] theorem State.finalize_hostData (s : State) (A : Lanes) : (s.finalize A).hostData = s.hostData := rfl
@[simp] theorem State.finalize_freeTick (s : State) (A : Lanes) : (s.finalize A).freeTick = s.freeTick := rfl

@[simp] theorem State.spoilOut_lanes (s : State) (n : Nat) : (s.spoilOut n).lanes = s.lanes := rfl
@[simp] theorem State.spoilOut_phase (s : State) (n : Nat) : (s.spoilOut n).phase = s.phase := rfl
@[simp] theorem State.spoilOut_err (s : State) (n : Nat) : (s.spoilOut n).err = s.err := rfl
@[simp] theorem State.spoilOut_cause (s : State) (n : Nat) : (s.spoilOut n).cause = s.cause := rfl
@[simp] theorem State.spoilOut_mlen (s : State) (n : Nat) : (s.spoilOut n).mlen = s.mlen := rfl
@[simp] theorem State.spoilOut_mptr (s : State) (n : Nat) : (s.spoilOut n).mptr = s.mptr := rfl
@[simp] theorem State.spoilOut_olen (s : State) (n : Nat) : (s.spoilOut n).olen = s.olen := rfl
@[simp] theorem State.spoilOut_msg (s : State) (n : Nat) : (s.spoilOut n).msg = s.msg := rfl
@[simp] theorem State.spoilOut_out (s : State) (n : Nat) : (s.spoilOut n).out = s.out.eraseRun 0 n := rfl
@[simp] theorem State.spoilOut_platform (s : State) (n : Nat) : (s.spoilOut n).platform = s.platform := rfl
@[simp] theorem State.spoilOut_host (s : State) (n : Nat) : (s.spoilOut n).host = s.host := rfl
@[simp] theorem State.spoilOut_hostData (s : State) (n : Nat) : (s.spoilOut n).hostData = s.hostData := rfl
@[simp] theorem State.spoilOut_freeTick (s : State) (n : Nat) : (s.spoilOut n).freeTick = s.freeTick := rfl

@[simp] theorem hostReset_lanes (s : State) : (hostReset s).lanes = Lanes.zero := rfl
@[simp] theorem hostReset_phase (s : State) : (hostReset s).phase = .absorb := rfl
@[simp] theorem hostReset_err (s : State) : (hostReset s).err = false := rfl
@[simp] theorem hostReset_cause (s : State) : (hostReset s).cause = .none := rfl
@[simp] theorem hostReset_mlen (s : State) : (hostReset s).mlen = 0 := rfl
@[simp] theorem hostReset_mptr (s : State) : (hostReset s).mptr = 0 := rfl
@[simp] theorem hostReset_olen (s : State) : (hostReset s).olen = 0 := rfl
@[simp] theorem hostReset_msg (s : State) : (hostReset s).msg = s.msg := rfl
@[simp] theorem hostReset_out (s : State) : (hostReset s).out = s.out := rfl
@[simp] theorem hostReset_platform (s : State) : (hostReset s).platform = s.platform := rfl
@[simp] theorem hostReset_host (s : State) : (hostReset s).host = s.host := rfl
@[simp] theorem hostReset_hostData (s : State) : (hostReset s).hostData = s.hostData := rfl
@[simp] theorem hostReset_freeTick (s : State) : (hostReset s).freeTick = s.freeTick := rfl

/-! No update moves what is backed; only `setMsg` moves what a byte of MSG reads as. -/

@[simp] theorem State.setLanes_msgBacked (s : State) (A : Lanes) (a : Nat) : (s.setLanes A).msgBacked a = s.msgBacked a := rfl
@[simp] theorem State.setLanes_outBacked (s : State) (A : Lanes) (a : Nat) : (s.setLanes A).outBacked a = s.outBacked a := rfl
@[simp] theorem State.setLanes_msgByte (s : State) (A : Lanes) (a : Nat) : (s.setLanes A).msgByte a = s.msgByte a := rfl

@[simp] theorem State.setPhase_msgBacked (s : State) (p : Phase) (a : Nat) : (s.setPhase p).msgBacked a = s.msgBacked a := rfl
@[simp] theorem State.setPhase_outBacked (s : State) (p : Phase) (a : Nat) : (s.setPhase p).outBacked a = s.outBacked a := rfl
@[simp] theorem State.setPhase_msgByte (s : State) (p : Phase) (a : Nat) : (s.setPhase p).msgByte a = s.msgByte a := rfl

@[simp] theorem State.setFault_msgBacked (s : State) (e : Bool) (c : Cause) (a : Nat) : (s.setFault e c).msgBacked a = s.msgBacked a := rfl
@[simp] theorem State.setFault_outBacked (s : State) (e : Bool) (c : Cause) (a : Nat) : (s.setFault e c).outBacked a = s.outBacked a := rfl
@[simp] theorem State.setFault_msgByte (s : State) (e : Bool) (c : Cause) (a : Nat) : (s.setFault e c).msgByte a = s.msgByte a := rfl

@[simp] theorem State.setMlen_msgBacked (s : State) (v : Word) (a : Nat) : (s.setMlen v).msgBacked a = s.msgBacked a := rfl
@[simp] theorem State.setMlen_outBacked (s : State) (v : Word) (a : Nat) : (s.setMlen v).outBacked a = s.outBacked a := rfl
@[simp] theorem State.setMlen_msgByte (s : State) (v : Word) (a : Nat) : (s.setMlen v).msgByte a = s.msgByte a := rfl

@[simp] theorem State.setMptr_msgBacked (s : State) (v : Word) (a : Nat) : (s.setMptr v).msgBacked a = s.msgBacked a := rfl
@[simp] theorem State.setMptr_outBacked (s : State) (v : Word) (a : Nat) : (s.setMptr v).outBacked a = s.outBacked a := rfl
@[simp] theorem State.setMptr_msgByte (s : State) (v : Word) (a : Nat) : (s.setMptr v).msgByte a = s.msgByte a := rfl

@[simp] theorem State.setOlen_msgBacked (s : State) (v : BitVec 16) (a : Nat) : (s.setOlen v).msgBacked a = s.msgBacked a := rfl
@[simp] theorem State.setOlen_outBacked (s : State) (v : BitVec 16) (a : Nat) : (s.setOlen v).outBacked a = s.outBacked a := rfl
@[simp] theorem State.setOlen_msgByte (s : State) (v : BitVec 16) (a : Nat) : (s.setOlen v).msgByte a = s.msgByte a := rfl

@[simp] theorem State.setMsg_msgBacked (s : State) (m : Memory) (a : Nat) : (s.setMsg m).msgBacked a = s.msgBacked a := rfl
@[simp] theorem State.setMsg_outBacked (s : State) (m : Memory) (a : Nat) : (s.setMsg m).outBacked a = s.outBacked a := rfl

@[simp] theorem State.setOut_msgBacked (s : State) (m : Memory) (a : Nat) : (s.setOut m).msgBacked a = s.msgBacked a := rfl
@[simp] theorem State.setOut_outBacked (s : State) (m : Memory) (a : Nat) : (s.setOut m).outBacked a = s.outBacked a := rfl
@[simp] theorem State.setOut_msgByte (s : State) (m : Memory) (a : Nat) : (s.setOut m).msgByte a = s.msgByte a := rfl

@[simp] theorem State.setHost_msgBacked (s : State) (ops : List HostOp) (a : Nat) : (s.setHost ops).msgBacked a = s.msgBacked a := rfl
@[simp] theorem State.setHost_outBacked (s : State) (ops : List HostOp) (a : Nat) : (s.setHost ops).outBacked a = s.outBacked a := rfl
@[simp] theorem State.setHost_msgByte (s : State) (ops : List HostOp) (a : Nat) : (s.setHost ops).msgByte a = s.msgByte a := rfl

@[simp] theorem State.setHostData_msgBacked (s : State) (v : Word) (a : Nat) : (s.setHostData v).msgBacked a = s.msgBacked a := rfl
@[simp] theorem State.setHostData_outBacked (s : State) (v : Word) (a : Nat) : (s.setHostData v).outBacked a = s.outBacked a := rfl
@[simp] theorem State.setHostData_msgByte (s : State) (v : Word) (a : Nat) : (s.setHostData v).msgByte a = s.msgByte a := rfl

@[simp] theorem State.setFreeTick_msgBacked (s : State) (n : Nat) (a : Nat) : (s.setFreeTick n).msgBacked a = s.msgBacked a := rfl
@[simp] theorem State.setFreeTick_outBacked (s : State) (n : Nat) (a : Nat) : (s.setFreeTick n).outBacked a = s.outBacked a := rfl
@[simp] theorem State.setFreeTick_msgByte (s : State) (n : Nat) (a : Nat) : (s.setFreeTick n).msgByte a = s.msgByte a := rfl

@[simp] theorem State.finalize_msgBacked (s : State) (A : Lanes) (a : Nat) : (s.finalize A).msgBacked a = s.msgBacked a := rfl
@[simp] theorem State.finalize_outBacked (s : State) (A : Lanes) (a : Nat) : (s.finalize A).outBacked a = s.outBacked a := rfl
@[simp] theorem State.finalize_msgByte (s : State) (A : Lanes) (a : Nat) : (s.finalize A).msgByte a = s.msgByte a := rfl

@[simp] theorem State.spoilOut_msgBacked (s : State) (n : Nat) (a : Nat) : (s.spoilOut n).msgBacked a = s.msgBacked a := rfl
@[simp] theorem State.spoilOut_outBacked (s : State) (n : Nat) (a : Nat) : (s.spoilOut n).outBacked a = s.outBacked a := rfl
@[simp] theorem State.spoilOut_msgByte (s : State) (n : Nat) (a : Nat) : (s.spoilOut n).msgByte a = s.msgByte a := rfl

/-! What a command's checks and reads see of a state: only the fields named on the right. -/

theorem State.msgBacked_congr {s t : State} (h : t.platform = s.platform) (a : Nat) : t.msgBacked a = s.msgBacked a := by
  simp [State.msgBacked, h]

theorem State.outBacked_congr {s t : State} (h : t.platform = s.platform) (a : Nat) : t.outBacked a = s.outBacked a := by
  simp [State.outBacked, h]

theorem State.msgByte_congr {s t : State} (h : t.msg = s.msg) (a : Nat) : t.msgByte a = s.msgByte a := by
  simp [State.msgByte, h]

theorem State.readMsg_congr {s t : State} (hp : t.platform = s.platform) (hm : t.msg = s.msg) (a n : Nat) :
    t.readMsg a n = s.readMsg a n := by
  simp [State.readMsg, State.msgBytes, State.msgBacked_congr hp, State.msgByte_congr hm]

/-- Two states are equal when all their fields are. -/
theorem State.ext_fields {s t : State} (lanes : s.lanes = t.lanes) (phase : s.phase = t.phase) (err : s.err = t.err)
    (cause : s.cause = t.cause) (mlen : s.mlen = t.mlen) (mptr : s.mptr = t.mptr) (olen : s.olen = t.olen)
    (msg : s.msg = t.msg) (out : s.out = t.out) (platform : s.platform = t.platform) (host : s.host = t.host)
    (hostData : s.hostData = t.hostData) (freeTick : s.freeTick = t.freeTick) : s = t := by
  cases s; cases t; simp_all

end Sys2Proof.Machine
end

