-- ==== Sys2Proof/Laws/Memory.lean ====
section
/-! SUPPORT. The byte memories: read after write, what a write leaves alone, and that every operation keeps the
canonical form. -/

namespace Sys2Proof.Machine

@[simp] theorem Memory.read?_nil (a : Nat) : Memory.read? [] a = none := rfl

theorem Memory.read?_cons (c : Host.Cell) (m : Memory) (a : Nat) :
    Memory.read? (c :: m) a = if c.1 = a then some c.2 else Memory.read? m a := rfl

theorem Memory.read?_append (m n : Memory) (a : Nat) :
    Memory.read? (m ++ n) a = (Memory.read? m a).or (Memory.read? n a) := by
  induction m with
  | nil => simp
  | cons c m ih => by_cases h : c.1 = a <;> simp [Memory.read?_cons, h, ih]

/-- A filter that looks at addresses only reads through where it keeps the address and hides the rest. -/
theorem Memory.read?_filter (p : Nat → Bool) (m : Memory) (a : Nat) :
    Memory.read? (m.filter fun c => p c.1) a = if p a then Memory.read? m a else none := by
  induction m with
  | nil => simp
  | cons c m ih =>
    by_cases hp : p c.1 <;> by_cases h : c.1 = a <;> simp_all [Memory.read?_cons]

theorem Memory.read?_run (bs : List Byte) (a k : Nat) :
    Memory.read? (Memory.run a bs) k = if a ≤ k then bs[k - a]? else none := by
  induction bs generalizing a with
  | nil => simp [Memory.run]
  | cons b bs ih =>
    simp only [Memory.run, Memory.read?_cons, ih]
    by_cases h : a = k
    · simp [h]
    · by_cases hk : a ≤ k
      · have : k - a = (k - (a + 1)) + 1 := by omega
        simp [h, hk, show a + 1 ≤ k by omega, this]
      · simp [h, hk, show ¬ a + 1 ≤ k by omega]

/-- Reading after a write: the written byte inside the run, the old one outside it. -/
theorem Memory.read?_writeRun (m : Memory) (a : Nat) (bs : List Byte) (k : Nat) :
    Memory.read? (m.writeRun a bs) k =
      if a ≤ k ∧ k < a + bs.length then bs[k - a]? else Memory.read? m k := by
  simp only [Memory.writeRun, Memory.read?_append, Memory.read?_run,
    Memory.read?_filter (fun x => decide (x < a)), Memory.read?_filter (fun x => decide (a + bs.length ≤ x))]
  by_cases h1 : k < a
  · simp [h1, show ¬ a ≤ k by omega, show ¬ a + bs.length ≤ k by omega]
  · by_cases h2 : k < a + bs.length
    · simp [h1, h2, show a ≤ k by omega, show ¬ a + bs.length ≤ k by omega]
    · simp [h1, h2, show a ≤ k by omega, show a + bs.length ≤ k by omega, show bs.length ≤ k - a by omega]

/-- Reading after an erasure: nothing inside the run, the old byte outside it. -/
theorem Memory.read?_eraseRun (m : Memory) (a n k : Nat) :
    Memory.read? (m.eraseRun a n) k = if a ≤ k ∧ k < a + n then none else Memory.read? m k := by
  rw [Memory.eraseRun, Memory.read?_filter (fun x => decide (x < a) || decide (a + n ≤ x))]
  by_cases h : a ≤ k ∧ k < a + n
  · simp [h]
  · have : k < a ∨ a + n ≤ k := by omega
    simp [h, this]

theorem Memory.mem_run {bs : List Byte} {a : Nat} {c : Host.Cell} (h : c ∈ Memory.run a bs) :
    a ≤ c.1 ∧ c.1 < a + bs.length := by
  induction bs generalizing a with
  | nil => simp [Memory.run] at h
  | cons b bs ih =>
    simp only [Memory.run, List.mem_cons] at h
    rcases h with rfl | h
    · simp
    · have := ih h
      simp only [List.length_cons]
      omega

theorem Memory.run_wf (a : Nat) (bs : List Byte) : (Memory.run a bs).wf := by
  induction bs generalizing a with
  | nil => exact List.Pairwise.nil
  | cons b bs ih =>
    refine List.Pairwise.cons (fun c hc => ?_) (ih (a + 1))
    have := Memory.mem_run hc
    simp only
    omega

/-- A write keeps the canonical form. -/
theorem Memory.writeRun_wf {m : Memory} (h : m.wf) (a : Nat) (bs : List Byte) : (m.writeRun a bs).wf := by
  refine List.pairwise_append.2 ⟨List.pairwise_append.2 ⟨h.filter _, Memory.run_wf a bs, ?_⟩, h.filter _, ?_⟩
  · intro c hc d hd
    have hc := (List.mem_filter.1 hc).2
    have hd := Memory.mem_run hd
    simp only [decide_eq_true_eq] at hc
    omega
  · intro c hc d hd
    have hd := (List.mem_filter.1 hd).2
    simp only [decide_eq_true_eq] at hd
    rcases List.mem_append.1 hc with hc | hc
    · have hc := (List.mem_filter.1 hc).2
      simp only [decide_eq_true_eq] at hc
      omega
    · have hc := Memory.mem_run hc
      omega

/-- An erasure keeps the canonical form. -/
theorem Memory.eraseRun_wf {m : Memory} (h : m.wf) (a n : Nat) : (m.eraseRun a n).wf := h.filter _

/-- The memories after reset have the canonical form. -/
theorem State.reset_memories_wf : State.reset.msg.wf ∧ State.reset.out.wf := ⟨List.Pairwise.nil, List.Pairwise.nil⟩

/-- What is listed after a write was listed before or lies in the written run. -/
theorem Memory.mem_writeRun {m : Memory} {a : Nat} {bs : List Byte} {c : Host.Cell} (h : c ∈ m.writeRun a bs) :
    c ∈ m ∨ (a ≤ c.1 ∧ c.1 < a + bs.length) := by
  simp only [Memory.writeRun, List.mem_append, List.mem_filter] at h
  rcases h with (h | h) | h
  · exact .inl h.1
  · exact .inr (Memory.mem_run h)
  · exact .inl h.1

/-- What is listed after an erasure was listed before. -/
theorem Memory.mem_eraseRun {m : Memory} {a n : Nat} {c : Host.Cell} (h : c ∈ m.eraseRun a n) : c ∈ m :=
  (List.mem_filter.1 h).1

end Sys2Proof.Machine
end

