-- ==== Sys2Proof/Laws/Ops.lean ====
section
/-! SUPPORT. Everything each shared operation can do: the guard, the fault, the reads of MSG, the writes of OUT, the
delivery of output, the datapath commands' common shape. -/

namespace Sys2Proof.Machine

/-! ### The guard and the fault -/

theorem accept_of_err {s : State} (h : s.err = true) (k : Result) : accept s k = .next s := by simp [accept, h]

theorem accept_of_ok {s : State} (h : s.err = false) (k : Result) : accept s k = k := by simp [accept, h]

theorem accept_cases {s t : State} {k : Result} (h : accept s k = .next t) :
    (s.err = true ∧ t = s) ∨ (s.err = false ∧ k = .next t) := by
  cases he : s.err
  · rw [accept_of_ok he] at h; exact .inr ⟨rfl, h⟩
  · rw [accept_of_err he] at h; injection h with h; exact .inl ⟨rfl, h.symm⟩

theorem raise_eq (c : Cause) (s : State) : raise c s = .next (s.setFault true c) := rfl

theorem raise_cases {c : Cause} {s t : State} (h : raise c s = .next t) : t = s.setFault true c := by
  injection h with h; exact h.symm

/-! ### Reading MSG -/

@[simp] theorem State.length_msgBytes (s : State) (a n : Nat) : (s.msgBytes a n).length = n := by simp [State.msgBytes]

theorem State.getElem?_msgBytes (s : State) (a n i : Nat) :
    (s.msgBytes a n)[i]? = if i < n then some (s.msgByte (a + i)) else none := by
  by_cases h : i < n <;> simp [State.msgBytes, h]

/-- A run of message bytes in two parts. -/
theorem State.msgBytes_append (s : State) (a m n : Nat) :
    s.msgBytes a (m + n) = s.msgBytes a m ++ s.msgBytes (a + m) n := by
  simp only [State.msgBytes, List.range_add, List.map_append, List.map_map]
  congr 1
  apply List.map_congr_left
  intro i _
  simp [Nat.add_assoc]

theorem State.readMsg_of_backed {s : State} {a n : Nat} (h : ∀ i, i < n → s.msgBacked (a + i) = true) :
    s.readMsg a n = some (s.msgBytes a n) := by
  rw [State.readMsg, if_pos]
  simpa using h

/-- A read of MSG succeeds exactly when every address it needs is backed, and then gives the bytes there. -/
theorem State.readMsg_eq_some {s : State} {a n : Nat} {d : List Byte} :
    s.readMsg a n = some d ↔ (∀ i, i < n → s.msgBacked (a + i) = true) ∧ d = s.msgBytes a n := by
  unfold State.readMsg
  split
  · next h =>
    simp only [List.all_eq_true, List.mem_range] at h
    simp only [Option.some.injEq]
    exact ⟨fun e => ⟨h, e.symm⟩, fun e => e.2.symm⟩
  · next h =>
    simp only [List.all_eq_true, List.mem_range] at h
    simp [h]

/-- It is refused exactly when some address it needs is not backed. -/
theorem State.readMsg_eq_none {s : State} {a n : Nat} :
    s.readMsg a n = none ↔ ∃ i, i < n ∧ s.msgBacked (a + i) = false := by
  unfold State.readMsg
  split
  · next h =>
    simp only [List.all_eq_true, List.mem_range] at h
    simp only [reduceCtorEq, false_iff, not_exists, not_and, Bool.not_eq_false]
    exact h
  · next h =>
    simpa using h

theorem State.length_of_readMsg {s : State} {a n : Nat} {d : List Byte} (h : s.readMsg a n = some d) : d.length = n := by
  rw [(State.readMsg_eq_some.1 h).2]; simp

/-! ### Writing OUT -/

theorem State.writeOut_of_backed {s : State} {bs : List Byte} (h : ∀ j, j < bs.length → s.outBacked j = true) :
    s.writeOut bs = some (s.setOut (s.out.writeRun 0 bs)) := by
  rw [State.writeOut, if_pos]
  simpa using h

/-- A write of OUT succeeds exactly when every address it needs is backed; it writes those bytes and no other field. -/
theorem State.writeOut_eq_some {s t : State} {bs : List Byte} :
    s.writeOut bs = some t ↔ (∀ j, j < bs.length → s.outBacked j = true) ∧ t = s.setOut (s.out.writeRun 0 bs) := by
  unfold State.writeOut
  split
  · next h =>
    simp only [List.all_eq_true, List.mem_range] at h
    simp only [Option.some.injEq]
    exact ⟨fun e => ⟨h, e.symm⟩, fun e => e.2.symm⟩
  · next h =>
    simp only [List.all_eq_true, List.mem_range] at h
    simp [h]

theorem State.writeOut_eq_none {s : State} {bs : List Byte} :
    s.writeOut bs = none ↔ ∃ j, j < bs.length ∧ s.outBacked j = false := by
  unfold State.writeOut
  split
  · next h =>
    simp only [List.all_eq_true, List.mem_range] at h
    simp only [reduceCtorEq, false_iff, not_exists, not_and, Bool.not_eq_false]
    exact h
  · next h =>
    simpa using h

/-- How SQUEEZE and HASH end: with all of the output stored, or with OUT_ACCESS. -/
theorem deliver_cases {s0 s t : State} {r : List Byte × Lanes} {len : BitVec 16} (h : deliver s0 s r len = .next t) :
    ((∀ j, j < r.1.length → s.outBacked j = true) ∧
      t = (((s.setOut (s.out.writeRun 0 r.1)).setLanes r.2).setOlen len).setPhase .done) ∨
    ((∃ j, j < r.1.length ∧ s.outBacked j = false) ∧ t = (s0.spoilOut r.1.length).setFault true .outAccess) := by
  unfold deliver at h
  split at h
  · next hw => exact .inr ⟨State.writeOut_eq_none.1 hw, raise_cases h⟩
  · next u hw =>
    obtain ⟨hb, rfl⟩ := State.writeOut_eq_some.1 hw
    injection h with h
    exact .inl ⟨hb, h.symm⟩

theorem deliver_of_backed {s0 s : State} {r : List Byte × Lanes} {len : BitVec 16}
    (h : ∀ j, j < r.1.length → s.outBacked j = true) :
    deliver s0 s r len = .next ((((s.setOut (s.out.writeRun 0 r.1)).setLanes r.2).setOlen len).setPhase .done) := by
  simp [deliver, State.writeOut_of_backed h]

theorem deliver_of_unbacked {s0 s : State} {r : List Byte × Lanes} {len : BitVec 16}
    (h : ∃ j, j < r.1.length ∧ s.outBacked j = false) :
    deliver s0 s r len = .next ((s0.spoilOut r.1.length).setFault true .outAccess) := by
  simp [deliver, State.writeOut_eq_none.2 h, raise_eq]

/-! ### Operands -/

theorem roundIndex?_of_lt {ir : BitVec 8} (h : ir.toNat < 24) : roundIndex? ir = some ⟨ir.toNat, h⟩ := by
  simp [roundIndex?, h]

theorem roundIndex?_of_ge {ir : BitVec 8} (h : 24 ≤ ir.toNat) : roundIndex? ir = none := by
  simp [roundIndex?, Nat.not_lt.2 h]

/-! ### Reset -/

/-- The state after reset is what HostReset makes of it (10_state.md R36, 70_reset_and_hazards.md R200). -/
theorem hostReset_reset : hostReset State.reset = State.reset := rfl

end Sys2Proof.Machine
end

