-- ==== Sys2Proof/Laws/Exec.lean ====
section
/-! SUPPORT. Everything each command and each host operation can do, said once: if it answers a next state, then one of
the listed cases holds. -/

namespace Sys2Proof.Machine

theorem mapLanes_cases {f : Lanes → Lanes} {s t : State} (h : mapLanes f s = .next t) :
    (s.err = true ∧ t = s) ∨ (s.err = false ∧ t = s.setLanes (f s.lanes)) := by
  rcases accept_cases h with h | ⟨he, h⟩
  · exact .inl h
  · injection h with h; exact .inr ⟨he, h.symm⟩

theorem mapLanesIndexed_cases {f : Lanes → Fin 24 → Lanes} {ir : BitVec 8} {s t : State}
    (h : mapLanesIndexed f ir s = .next t) :
    (s.err = true ∧ t = s) ∨ (s.err = false ∧ 24 ≤ ir.toNat ∧ t = s.setFault true .badOperand) ∨
      (s.err = false ∧ ∃ hi : ir.toNat < 24, t = s.setLanes (f s.lanes ⟨ir.toNat, hi⟩)) := by
  rcases accept_cases h with h | ⟨he, h⟩
  · exact .inl h
  · by_cases hi : ir.toNat < 24
    · simp only [roundIndex?_of_lt hi] at h
      injection h with h; exact .inr (.inr ⟨he, hi, h.symm⟩)
    · simp only [roundIndex?_of_ge (Nat.le_of_not_lt hi)] at h
      exact .inr (.inl ⟨he, Nat.le_of_not_lt hi, raise_cases h⟩)

theorem execInit_cases {s t : State} (h : execInit s = .next t) :
    (s.err = true ∧ t = s) ∨
      (s.err = false ∧ t = (((s.setLanes Lanes.zero).setPhase .absorb).setMptr 0).setOlen 0) := by
  rcases accept_cases h with h | ⟨he, h⟩
  · exact .inl h
  · injection h with h; exact .inr ⟨he, h.symm⟩

/-- ABSB: refused, BAD_PHASE, BAD_LENGTH, MSG_ACCESS, or one block absorbed. -/
theorem execAbsb_cases {s t : State} (h : execAbsb s = .next t) :
    (s.err = true ∧ t = s) ∨
    (s.err = false ∧ s.phase ≠ .absorb ∧ t = s.setFault true .badPhase) ∨
    (s.err = false ∧ s.phase = .absorb ∧ s.mlen.toNat < s.mptr.toNat + 136 ∧ t = s.setFault true .badLength) ∨
    (s.err = false ∧ s.phase = .absorb ∧ s.mptr.toNat + 136 ≤ s.mlen.toNat ∧
      (∃ i, i < 136 ∧ s.msgBacked (s.mptr.toNat + i) = false) ∧ t = s.setFault true .msgAccess) ∨
    (s.err = false ∧ s.phase = .absorb ∧ s.mptr.toNat + 136 ≤ s.mlen.toNat ∧
      (∀ i, i < 136 → s.msgBacked (s.mptr.toNat + i) = true) ∧
      t = (s.setLanes (permute (xorin s.lanes (s.msgBytes s.mptr.toNat 136)))).setMptr (s.mptr + 136)) := by
  rcases accept_cases h with h | ⟨he, h⟩
  · exact .inl h
  · split at h
    · next hp => exact .inr (.inl ⟨he, hp, raise_cases h⟩)
    · next hp =>
      have hp : s.phase = .absorb := by simpa using hp
      split at h
      · next hl =>
        simp only [State.overrun, State.remaining, Config.rateBytes_eq, decide_eq_true_eq] at hl
        exact .inr (.inr (.inl ⟨he, hp, by omega, raise_cases h⟩))
      · next hl =>
        simp only [State.overrun, State.remaining, Config.rateBytes_eq, decide_eq_true_eq] at hl
        split at h
        · next hr => exact .inr (.inr (.inr (.inl ⟨he, hp, by omega, State.readMsg_eq_none.1 hr, raise_cases h⟩)))
        · next d hr =>
          obtain ⟨hb, rfl⟩ := State.readMsg_eq_some.1 hr
          injection h with h
          exact .inr (.inr (.inr (.inr ⟨he, hp, by omega, hb, h.symm⟩)))

/-- ABSF: refused, BAD_PHASE, BAD_LENGTH, MSG_ACCESS, or the remainder absorbed, padded and finalized. -/
theorem execAbsf_cases {s t : State} (h : execAbsf s = .next t) :
    (s.err = true ∧ t = s) ∨
    (s.err = false ∧ s.phase ≠ .absorb ∧ t = s.setFault true .badPhase) ∨
    (s.err = false ∧ s.phase = .absorb ∧ (s.mlen.toNat < s.mptr.toNat ∨ s.mptr.toNat + 136 ≤ s.mlen.toNat) ∧
      t = s.setFault true .badLength) ∨
    (s.err = false ∧ s.phase = .absorb ∧ s.mptr.toNat ≤ s.mlen.toNat ∧ s.mlen.toNat < s.mptr.toNat + 136 ∧
      (∃ i, i < s.remaining ∧ s.msgBacked (s.mptr.toNat + i) = false) ∧ t = s.setFault true .msgAccess) ∨
    (s.err = false ∧ s.phase = .absorb ∧ s.mptr.toNat ≤ s.mlen.toNat ∧ s.mlen.toNat < s.mptr.toNat + 136 ∧
      (∀ i, i < s.remaining → s.msgBacked (s.mptr.toNat + i) = true) ∧
      t = s.finalize (pad (xorin s.lanes (s.msgBytes s.mptr.toNat s.remaining)) s.remaining)) := by
  rcases accept_cases h with h | ⟨he, h⟩
  · exact .inl h
  · split at h
    · next hp => exact .inr (.inl ⟨he, hp, raise_cases h⟩)
    · next hp =>
      have hp : s.phase = .absorb := by simpa using hp
      split at h
      · next hl =>
        simp only [State.overrun, State.remaining, Config.rateBytes_eq, decide_eq_true_eq] at hl
        exact .inr (.inr (.inl ⟨he, hp, by omega, raise_cases h⟩))
      · next hl =>
        simp only [State.overrun, State.remaining, Config.rateBytes_eq, decide_eq_true_eq] at hl
        split at h
        · next hr =>
          exact .inr (.inr (.inr (.inl ⟨he, hp, by omega, by omega, State.readMsg_eq_none.1 hr, raise_cases h⟩)))
        · next d hr =>
          obtain ⟨hb, rfl⟩ := State.readMsg_eq_some.1 hr
          injection h with h
          rw [State.length_msgBytes] at h
          exact .inr (.inr (.inr (.inr ⟨he, hp, by omega, by omega, hb, h.symm⟩)))

/-- ABSORB: refused, BAD_PHASE, BAD_LENGTH, MSG_ACCESS, or the whole message absorbed and finalized. -/
theorem execAbsorb_cases {s t : State} (h : execAbsorb s = .next t) :
    (s.err = true ∧ t = s) ∨
    (s.err = false ∧ s.phase ≠ .absorb ∧ t = s.setFault true .badPhase) ∨
    (s.err = false ∧ s.phase = .absorb ∧ s.mlen.toNat < s.mptr.toNat ∧ t = s.setFault true .badLength) ∨
    (s.err = false ∧ s.phase = .absorb ∧ s.mptr.toNat ≤ s.mlen.toNat ∧
      (∃ i, i < s.remaining ∧ s.msgBacked (s.mptr.toNat + i) = false) ∧ t = s.setFault true .msgAccess) ∨
    (s.err = false ∧ s.phase = .absorb ∧ s.mptr.toNat ≤ s.mlen.toNat ∧
      (∀ i, i < s.remaining → s.msgBacked (s.mptr.toNat + i) = true) ∧
      t = s.finalize (absorbFrom s.lanes (s.msgBytes s.mptr.toNat s.remaining))) := by
  rcases accept_cases h with h | ⟨he, h⟩
  · exact .inl h
  · split at h
    · next hp => exact .inr (.inl ⟨he, hp, raise_cases h⟩)
    · next hp =>
      have hp : s.phase = .absorb := by simpa using hp
      split at h
      · next hl =>
        simp only [State.overrun, decide_eq_true_eq] at hl
        exact .inr (.inr (.inl ⟨he, hp, hl, raise_cases h⟩))
      · next hl =>
        simp only [State.overrun, decide_eq_true_eq] at hl
        split at h
        · next hr => exact .inr (.inr (.inr (.inl ⟨he, hp, by omega, State.readMsg_eq_none.1 hr, raise_cases h⟩)))
        · next d hr =>
          obtain ⟨hb, rfl⟩ := State.readMsg_eq_some.1 hr
          injection h with h
          exact .inr (.inr (.inr (.inr ⟨he, hp, by omega, hb, h.symm⟩)))

/-- SQUEEZE: refused, BAD_PHASE, OUT_ACCESS, or the output stored. -/
theorem execSqueeze_cases {len : BitVec 16} {s t : State} (h : execSqueeze len s = .next t) :
    (s.err = true ∧ t = s) ∨
    (s.err = false ∧ s.phase ≠ .final ∧ t = s.setFault true .badPhase) ∨
    (s.err = false ∧ s.phase = .final ∧ (∃ j, j < len.toNat ∧ s.outBacked j = false) ∧
      t = (s.spoilOut len.toNat).setFault true .outAccess) ∨
    (s.err = false ∧ s.phase = .final ∧ (∀ j, j < len.toNat → s.outBacked j = true) ∧
      t = (((s.setOut (s.out.writeRun 0 (squeeze s.lanes len.toNat).1)).setLanes
        (squeeze s.lanes len.toNat).2).setOlen len).setPhase .done) := by
  rcases accept_cases h with h | ⟨he, h⟩
  · exact .inl h
  · split at h
    · next hp => exact .inr (.inl ⟨he, hp, raise_cases h⟩)
    · next hp =>
      have hp : s.phase = .final := by simpa using hp
      rcases deliver_cases h with ⟨hb, ht⟩ | ⟨hb, ht⟩ <;> rw [length_squeeze] at hb
      · exact .inr (.inr (.inr ⟨he, hp, hb, ht⟩))
      · rw [length_squeeze] at ht
        exact .inr (.inr (.inl ⟨he, hp, hb, ht⟩))

/-- HASH: refused, MSG_ACCESS, OUT_ACCESS, or the digest stored. -/
theorem execHash_cases {s t : State} (h : execHash s = .next t) :
    (s.err = true ∧ t = s) ∨
    (s.err = false ∧ (∃ a, a < s.mlen.toNat ∧ s.msgBacked a = false) ∧ t = s.setFault true .msgAccess) ∨
    (s.err = false ∧ (∀ a, a < s.mlen.toNat → s.msgBacked a = true) ∧ (∃ j, j < 32 ∧ s.outBacked j = false) ∧
      t = (s.spoilOut 32).setFault true .outAccess) ∨
    (s.err = false ∧ (∀ a, a < s.mlen.toNat → s.msgBacked a = true) ∧ (∀ j, j < 32 → s.outBacked j = true) ∧
      t = ((((s.setMptr s.mlen).setOut (s.out.writeRun 0 ((absorb (s.msgBytes 0 s.mlen.toNat)).front 32))).setLanes
        (absorb (s.msgBytes 0 s.mlen.toNat))).setOlen 32).setPhase .done) := by
  rcases accept_cases h with h | ⟨he, h⟩
  · exact .inl h
  · split at h
    · next hr =>
      obtain ⟨i, hi, hb⟩ := State.readMsg_eq_none.1 hr
      exact .inr (.inl ⟨he, ⟨i, hi, by simpa using hb⟩, raise_cases h⟩)
    · next d hr =>
      obtain ⟨hb, rfl⟩ := State.readMsg_eq_some.1 hr
      have hb : ∀ a, a < s.mlen.toNat → s.msgBacked a = true := by simpa using hb
      have hq : squeeze (absorb (s.msgBytes 0 s.mlen.toNat)) Config.digestBytes =
          ((absorb (s.msgBytes 0 s.mlen.toNat)).front 32, absorb (s.msgBytes 0 s.mlen.toNat)) :=
        squeezeLoop_last _ _ 32 (by decide)
      rw [hq] at h
      rcases deliver_cases h with ⟨ho, ht⟩ | ⟨⟨j, hj, ho⟩, ht⟩
      · exact .inr (.inr (.inr ⟨he, hb, fun j hj => by simpa using ho j (by simpa using hj), ht⟩))
      · refine .inr (.inr (.inl ⟨he, hb, ⟨j, by simpa using hj, by simpa using ho⟩, ?_⟩))
        simpa using ht

/-- What a host operation other than HostIssue can do. -/
theorem hostReadLane_cases {i : Nat} {s t : State} (h : hostReadLane i s = .next t) :
    i < 25 ∧ t = s.setHostData (s.lanes.reg i) := by
  unfold hostReadLane at h
  split at h
  · next hi => injection h with h; exact ⟨hi, h.symm⟩
  · cases h

theorem hostWriteLane_cases {i : Nat} {v : Word} {s t : State} (h : hostWriteLane i v s = .next t) :
    i < 25 ∧ t = s.setLanes (s.lanes.setReg i v) := by
  unfold hostWriteLane at h
  split at h
  · next hi => injection h with h; exact ⟨hi, h.symm⟩
  · cases h

theorem hostReadCr_cases {n : Nat} {s t : State} (h : hostReadCr n s = .next t) :
    ∃ v, s.readCr n = some v ∧ t = s.setHostData v := by
  unfold hostReadCr at h
  split at h
  · next v hv => injection h with h; exact ⟨v, hv, h.symm⟩
  · cases h

theorem hostWriteCr_cases {n : Nat} {v : Word} {s t : State} (h : hostWriteCr n v s = .next t) :
    (n = 1 ∧ t = s.setMlen v) ∨ ((n = 0 ∨ n = 2 ∨ n = 3) ∧ t = s) := by
  unfold hostWriteCr at h
  match n, h with
  | 0, h => injection h with h; exact .inr ⟨.inl rfl, h.symm⟩
  | 1, h => injection h with h; exact .inl ⟨rfl, h.symm⟩
  | 2, h => injection h with h; exact .inr ⟨.inr (.inl rfl), h.symm⟩
  | 3, h => injection h with h; exact .inr ⟨.inr (.inr rfl), h.symm⟩
  | _ + 4, h => cases h

theorem hostWriteMsg_cases {a : Word} {v : Byte} {s t : State} (h : hostWriteMsg a v s = .next t) :
    s.msgBacked a.toNat = true ∧ t = s.setMsg (s.msg.writeRun a.toNat [v]) := by
  unfold hostWriteMsg at h
  split at h
  · next hb => injection h with h; exact ⟨hb, h.symm⟩
  · cases h

theorem hostReadOut_cases {a : Nat} {s t : State} (h : hostReadOut a s = .next t) :
    a < 65535 ∧ ((∃ v, s.out.read? a = some v ∧ t = s.setHostData (v.setWidth 64)) ∨
      (s.out.read? a = none ∧ ∃ v, t = (s.setHostData v).setFreeTick (s.freeTick + 1))) := by
  unfold hostReadOut at h
  split at h
  · cases h
  · next ha =>
    rw [Config.outSpace_eq] at ha
    refine ⟨by omega, ?_⟩
    split at h
    · next v hv => injection h with h; exact .inl ⟨v, hv, h.symm⟩
    · next hv => injection h with h; exact .inr ⟨hv, _, h.symm⟩

end Sys2Proof.Machine
end

