-- ==== Sys2Proof/Laws/PerInstr.lean ====
section
/-! SUPPORT. Statements for all instructions, made per instruction. Family FitsOwnRow: the word of a command fits the
row of the opcode table that has its mnemonic, and no other row (30_encoding.md R84). -/

namespace Sys2Proof

def Laws.FitsOwnRow.Statement (i : Instr) : Prop :=
  ∀ r ∈ opcodeRows, r.fits (encode i) = decide (r.mnemonic = i.mnemonic)

theorem Laws.FitsOwnRow.init : Laws.FitsOwnRow.Statement .init := by unfold Laws.FitsOwnRow.Statement; decide
theorem Laws.FitsOwnRow.theta : Laws.FitsOwnRow.Statement .theta := by unfold Laws.FitsOwnRow.Statement; decide
theorem Laws.FitsOwnRow.rho : Laws.FitsOwnRow.Statement .rho := by unfold Laws.FitsOwnRow.Statement; decide
theorem Laws.FitsOwnRow.pi : Laws.FitsOwnRow.Statement .pi := by unfold Laws.FitsOwnRow.Statement; decide
theorem Laws.FitsOwnRow.rhopi : Laws.FitsOwnRow.Statement .rhopi := by unfold Laws.FitsOwnRow.Statement; decide
theorem Laws.FitsOwnRow.chi : Laws.FitsOwnRow.Statement .chi := by unfold Laws.FitsOwnRow.Statement; decide
theorem Laws.FitsOwnRow.permute : Laws.FitsOwnRow.Statement .permute := by unfold Laws.FitsOwnRow.Statement; decide
theorem Laws.FitsOwnRow.absb : Laws.FitsOwnRow.Statement .absb := by unfold Laws.FitsOwnRow.Statement; decide
theorem Laws.FitsOwnRow.absf : Laws.FitsOwnRow.Statement .absf := by unfold Laws.FitsOwnRow.Statement; decide
theorem Laws.FitsOwnRow.absorb : Laws.FitsOwnRow.Statement .absorb := by unfold Laws.FitsOwnRow.Statement; decide
theorem Laws.FitsOwnRow.hash : Laws.FitsOwnRow.Statement .hash := by unfold Laws.FitsOwnRow.Statement; decide

/-- Each row's mask and value, as fields. -/
theorem opcodeRow_fields :
    opcodeRows.map (fun r => (r.mnemonic, r.val, r.mask)) =
      [("INIT", commandWord 0x01 0 0, commandWord 0xFF 0xFF 0xFFFF), ("THETA", commandWord 0x10 0 0, commandWord 0xFF 0xFF 0xFFFF),
       ("RHO", commandWord 0x11 0 0, commandWord 0xFF 0xFF 0xFFFF), ("PI", commandWord 0x12 0 0, commandWord 0xFF 0xFF 0xFFFF),
       ("RHOPI", commandWord 0x13 0 0, commandWord 0xFF 0xFF 0xFFFF), ("CHI", commandWord 0x14 0 0, commandWord 0xFF 0xFF 0xFFFF),
       ("IOTA", commandWord 0x15 0 0, commandWord 0xFF 0 0xFFFF), ("ROUND", commandWord 0x16 0 0, commandWord 0xFF 0 0xFFFF),
       ("PERMUTE", commandWord 0x17 0 0, commandWord 0xFF 0xFF 0xFFFF), ("ABSB", commandWord 0x20 0 0, commandWord 0xFF 0xFF 0xFFFF),
       ("ABSF", commandWord 0x21 0 0, commandWord 0xFF 0xFF 0xFFFF), ("ABSORB", commandWord 0x22 0 0, commandWord 0xFF 0xFF 0xFFFF),
       ("SQUEEZE", commandWord 0x30 0 0, commandWord 0xFF 0xFF 0), ("HASH", commandWord 0x40 0 0, commandWord 0xFF 0xFF 0xFFFF)] := by
  decide

/-- Whether a word fits a row, from its fields. -/
theorem OpcodeRow.fits_commandWord {r : OpcodeRow} {op a : BitVec 8} {b : BitVec 16} {op' a' mo ma : BitVec 8} {b' mb : BitVec 16}
    (hv : r.val = commandWord op' a' b') (hm : r.mask = commandWord mo ma mb) :
    r.fits (commandWord op a b) = decide (op &&& mo = op' ∧ a &&& ma = a' ∧ b &&& mb = b') := by
  rw [OpcodeRow.fits, hv, hm, commandWord_and, Bool.eq_iff_iff]
  simp [commandWord_inj]

/-- A word with opcode `op` fits no row with another opcode. -/
theorem OpcodeRow.fits_of_opcode_ne {r : OpcodeRow} {op a : BitVec 8} {b : BitVec 16}
    (hop : opField r.val ≠ op) (hm : opField r.mask = 0xFF) : r.fits (commandWord op a b) = false := by
  have hv := commandWord_fields r.val
  have hk := commandWord_fields r.mask
  rw [OpcodeRow.fits_commandWord hv.symm hk.symm, hm, decide_eq_false]
  rintro ⟨h, -⟩
  apply hop
  rw [← h]
  exact BitVec.and_allOnes

theorem Laws.FitsOwnRow.iota (ir : BitVec 8) : Laws.FitsOwnRow.Statement (.iota ir) := by
  intro r hr
  simp only [opcodeRows, List.mem_cons, List.not_mem_nil, or_false] at hr
  rcases hr with rfl | rfl | rfl | rfl | rfl | rfl | rfl | rfl | rfl | rfl | rfl | rfl | rfl | rfl
  case inr.inr.inr.inr.inr.inr.inl =>
    rw [encode, OpcodeRow.fits_commandWord (op' := 0x15) (a' := 0) (b' := 0) (mo := 0xFF) (ma := 0) (mb := 0xFFFF) rfl rfl]
    simp [Instr.mnemonic]
  all_goals exact OpcodeRow.fits_of_opcode_ne (by decide) (by decide)

theorem Laws.FitsOwnRow.round (ir : BitVec 8) : Laws.FitsOwnRow.Statement (.round ir) := by
  intro r hr
  simp only [opcodeRows, List.mem_cons, List.not_mem_nil, or_false] at hr
  rcases hr with rfl | rfl | rfl | rfl | rfl | rfl | rfl | rfl | rfl | rfl | rfl | rfl | rfl | rfl
  case inr.inr.inr.inr.inr.inr.inr.inl =>
    rw [encode, OpcodeRow.fits_commandWord (op' := 0x16) (a' := 0) (b' := 0) (mo := 0xFF) (ma := 0) (mb := 0xFFFF) rfl rfl]
    simp [Instr.mnemonic]
  all_goals exact OpcodeRow.fits_of_opcode_ne (by decide) (by decide)

theorem Laws.FitsOwnRow.squeeze (len : BitVec 16) : Laws.FitsOwnRow.Statement (.squeeze len) := by
  intro r hr
  simp only [opcodeRows, List.mem_cons, List.not_mem_nil, or_false] at hr
  rcases hr with rfl | rfl | rfl | rfl | rfl | rfl | rfl | rfl | rfl | rfl | rfl | rfl | rfl | rfl
  case inr.inr.inr.inr.inr.inr.inr.inr.inr.inr.inr.inr.inl =>
    rw [encode, OpcodeRow.fits_commandWord (op' := 0x30) (a' := 0) (b' := 0) (mo := 0xFF) (ma := 0xFF) (mb := 0) rfl rfl]
    simp [Instr.mnemonic]
  all_goals exact OpcodeRow.fits_of_opcode_ne (by decide) (by decide)

end Sys2Proof
end

