-- ==== Sys2Proof/Laws/Permutation.lean ====
section
/-! SUPPORT. What each step mapping does to the lane at (x, y). -/

namespace Sys2Proof

theorem thetaC_getElem (A : Lanes) (x : Nat) (h : x < 5) :
    (thetaC A)[x] = A.xy ⟨x, h⟩ 0 ^^^ A.xy ⟨x, h⟩ 1 ^^^ A.xy ⟨x, h⟩ 2 ^^^ A.xy ⟨x, h⟩ 3 ^^^ A.xy ⟨x, h⟩ 4 := by
  simp [thetaC]

/-- Theta at one lane, in terms of the column parities. -/
theorem theta_xy (A : Lanes) (x y : Fin 5) :
    (theta A).xy x y =
      A.xy x y ^^^ ((thetaC A)[(coord (x.val + 4)).val] ^^^ rol64 (thetaC A)[(coord (x.val + 1)).val] 1) := by
  simp [theta, thetaD]

theorem rho_xy (A : Lanes) (x y : Fin 5) : (rho A).xy x y = rol64 (A.xy x y) (rot x y) := by simp [rho]

theorem pi_xy (A : Lanes) (X Y : Fin 5) : (pi A).xy X Y = A.xy (src X Y).1 (src X Y).2 := by simp [pi]

/-- `src` undoes `dst` (40_permutation.md R105). -/
theorem src_dst (x y : Fin 5) : src (dst x y).1 (dst x y).2 = (x, y) := by revert x y; decide

theorem dst_src (X Y : Fin 5) : dst (src X Y).1 (src X Y).2 = (X, Y) := by revert X Y; decide

/-- Pi from the source side: the lane at (x, y) moves to `DST[x][y]`. -/
theorem pi_dst (A : Lanes) (x y : Fin 5) : (pi A).xy (dst x y).1 (dst x y).2 = A.xy x y := by
  rw [pi_xy, src_dst]

theorem rhopi_dst (A : Lanes) (x y : Fin 5) :
    (rhopi A).xy (dst x y).1 (dst x y).2 = rol64 (A.xy x y) (rot x y) := by
  rw [rhopi, pi_dst, rho_xy]

theorem chi_xy (A : Lanes) (x y : Fin 5) :
    (chi A).xy x y = A.xy x y ^^^ (~~~ A.xy (coord (x.val + 1)) y &&& A.xy (coord (x.val + 2)) y) := by simp [chi]

theorem iota_xy (A : Lanes) (ir : Fin 24) (x y : Fin 5) :
    (iota A ir).xy x y = if x = 0 ∧ y = 0 then A.xy 0 0 ^^^ rc ir else A.xy x y := by
  rw [Lanes.xy_eq_reg, iota, Lanes.reg_setReg A (by decide)]
  by_cases h : x = 0 ∧ y = 0
  · simp [h]
  · have : ¬ x.val + 5 * y.val = 0 := by
      intro h0
      exact h ⟨Fin.ext (by simp only [Fin.val_zero]; omega), Fin.ext (by simp only [Fin.val_zero]; omega)⟩
    rw [if_neg this, if_neg h, Lanes.xy_eq_reg]

end Sys2Proof
end

