-- ==== Sys2Proof/Laws/Step.lean ====
section
/-! SUPPORT. The step: idle, or the first pending host operation; commands in sequence. -/

namespace Sys2Proof.Machine

theorem step_idle {s : State} (h : s.host = []) : step s = .next s := by simp [step, h]

theorem step_op {s : State} {op : HostOp} {rest : List HostOp} (h : s.host = op :: rest) :
    step s = perform op (s.setHost rest) := by simp [step, h]

/-- Everything a step can do: nothing is pending and nothing changes, or the first pending operation is performed. -/
theorem step_cases {s t : State} (h : step s = .next t) :
    (s.host = [] ∧ t = s) ∨ ∃ op rest, s.host = op :: rest ∧ perform op (s.setHost rest) = .next t := by
  cases hh : s.host with
  | nil => rw [step_idle hh] at h; injection h with h; exact .inl ⟨rfl, h.symm⟩
  | cons op rest => rw [step_op hh] at h; exact .inr ⟨op, rest, rfl, h⟩

theorem issue_of_ok {W : Command} {i : Instr} (h : decode W = .ok i) (s : State) : issue W s = exec i s := by
  simp [issue, h]

theorem issue_of_error {W : Command} {e : DecodeReject} (h : decode W = .error e) (s : State) :
    issue W s = accept s (raise .illegalCmd s) := by simp [issue, h]

@[simp] theorem andThen_next (s : State) (f : State → Result) : andThen (.next s) f = f s := rfl

@[simp] theorem runCommands_nil (s : State) : runCommands [] s = .next s := rfl

theorem runCommands_cons (i : Instr) (is : List Instr) (s : State) :
    runCommands (i :: is) s = andThen (exec i s) (runCommands is) := rfl

theorem runCommands_append (is js : List Instr) (s : State) :
    runCommands (is ++ js) s = andThen (runCommands is s) (runCommands js) := by
  induction is generalizing s with
  | nil => rfl
  | cons i is ih =>
    simp only [List.cons_append, runCommands_cons]
    cases exec i s with
    | next t => simpa using ih t
    | fault r => rfl
    | refused r => rfl

@[simp] theorem setHost_withFetchWord (s : State) (nbits w : Nat) :
    (s.withFetchWord nbits w).setHost s.host = s := rfl

end Sys2Proof.Machine
end

