-- ==== Sys2Proof/Tests/Slice0.lean ====
section
/-! SUPPORT. The model's own tests, each about one step; expected values are those of 95_test_vectors.md (V<n>) and the
worked examples of the rules. Then, for every obligation with hypotheses, a concrete state and operands that meet them. -/

-- one test after the other: several permutations evaluated at once need more memory than a build may have
set_option Elab.async false

namespace Sys2Proof.Tests

open Sys2Proof.Machine

/-! ### Small states and what is read of a result -/

/-- The state after reset, with these lanes. -/
def withLanes (A : Lanes) : State := { State.reset with lanes := A }

/-- The lanes that are 0 but for lane `i`. -/
def oneLane (i : Nat) (v : Word) : Lanes := Lanes.zero.setReg i v

/-- `L[i]` is the number `i` (V26). -/
def numbered : Lanes := Vector.ofFn fun i => BitVec.ofNat 64 i.val

/-- `S[k] = k` (the test state T of 95_test_vectors.md). -/
def stateT : Lanes := Vector.ofFn fun i => 0x0706050403020100 + BitVec.ofNat 64 i.val * 0x0808080808080808

/-- The state after reset, with this many message bytes, each `0x61`. -/
def withMessage (n : Nat) : State :=
  { State.reset with mlen := BitVec.ofNat 64 n, msg := Memory.run 0 (List.replicate n 0x61) }

/-- The state after reset with the message "abc" (V42). -/
def abc : State := { State.reset with mlen := 3, msg := [(0, 0x61), (1, 0x62), (2, 0x63)] }

/-- The state after reset in another phase. -/
def inPhase (p : Phase) : State := { State.reset with phase := p }

/-- The platform of V74: MSG backed below 100, OUT backed below 16. -/
def narrow (n : Nat) : State :=
  { State.reset with mlen := BitVec.ofNat 64 n, platform := ⟨[⟨0, 100⟩], [⟨0, 16⟩]⟩ }

/-- MLEN below MPTR, as the host leaves it by lowering MLEN (V73). -/
def lowered : State := { State.reset with mlen := 100, mptr := 136 }

/-- A recorded fault (V75). -/
def faulted : State := { State.reset with err := true, cause := .illegalCmd }

/-- The next state. -/
def nextOf (r : Result) : Option State :=
  match r with
  | .next s => some s
  | _ => none

/-- Why the machine stopped. -/
def refusalOf (r : Result) : Option Refusal :=
  match r with
  | .refused x => some x
  | _ => none

/-- `L[i]` of a next state. -/
def laneOf (r : Result) (i : Nat) : Option Word :=
  match r with
  | .next s => some (s.lanes.reg i)
  | _ => none

/-- All lanes of a next state, in index order. -/
def lanesOf (r : Result) : Option (List Word) :=
  match r with
  | .next s => some s.lanes.toList
  | _ => none

/-- STATUS of a next state. -/
def statusOf (r : Result) : Option (BitVec 32) :=
  match r with
  | .next s => some s.statusWord
  | _ => none

/-- MPTR and OLEN of a next state. -/
def pointersOf (r : Result) : Option (Nat × Nat) :=
  match r with
  | .next s => some (s.mptr.toNat, s.olen.toNat)
  | _ => none

/-- OUT[0 .. n-1] of a next state. -/
def outOf (r : Result) (n : Nat) : Option (List (Option Byte)) :=
  match r with
  | .next s => some (s.outBytes n)
  | _ => none

/-! ### WellFormed: each check refuses an ill-formed term (30_encoding.md R81) -/

theorem test_wf_iota_24 : (Instr.iota 24).wf = false := by decide
theorem test_wf_iota_23 : (Instr.iota 23).wf = true := by decide
theorem test_wf_round_24 : (Instr.round 24).wf = false := by decide
theorem test_wf_round_255 : (Instr.round 255).wf = false := by decide
theorem test_wf_squeeze_any : (Instr.squeeze 65535).wf = true := by decide

/-! ### Decode: a word written out from the opcode map for every row (30_encoding.md R84) -/

theorem test_decode_init : decode 0b00000001_00000000_0000000000000000 = .ok .init := by decide
theorem test_decode_theta : decode 0b00010000_00000000_0000000000000000 = .ok .theta := by decide
theorem test_decode_rho : decode 0b00010001_00000000_0000000000000000 = .ok .rho := by decide
theorem test_decode_pi : decode 0b00010010_00000000_0000000000000000 = .ok .pi := by decide
theorem test_decode_rhopi : decode 0b00010011_00000000_0000000000000000 = .ok .rhopi := by decide
theorem test_decode_chi : decode 0b00010100_00000000_0000000000000000 = .ok .chi := by decide
theorem test_decode_iota : decode 0b00010101_00000101_0000000000000000 = .ok (.iota 5) := by decide
theorem test_decode_round : decode 0b00010110_00010111_0000000000000000 = .ok (.round 23) := by decide
theorem test_decode_permute : decode 0b00010111_00000000_0000000000000000 = .ok .permute := by decide
theorem test_decode_absb : decode 0b00100000_00000000_0000000000000000 = .ok .absb := by decide
theorem test_decode_absf : decode 0b00100001_00000000_0000000000000000 = .ok .absf := by decide
theorem test_decode_absorb : decode 0b00100010_00000000_0000000000000000 = .ok .absorb := by decide
theorem test_decode_squeeze : decode 0b00110000_00000000_0000000011001000 = .ok (.squeeze 200) := by decide
theorem test_decode_hash : decode 0b01000000_00000000_0000000000000000 = .ok .hash := by decide

/-- V70: the unknown opcodes and the reserved fields. -/
theorem test_decode_unknown :
    decode 0x00000000 = .error .unknownOpcode ∧ decode 0xFFFFFFFF = .error .unknownOpcode ∧
    decode 0x18000000 = .error .unknownOpcode ∧ decode 0x02000000 = .error .unknownOpcode := by decide
theorem test_decode_reserved :
    decode 0x01000001 = .error .reservedField ∧ decode 0x10010000 = .error .reservedField ∧
    decode 0x17000001 = .error .reservedField ∧ decode 0x15050001 = .error .reservedField ∧
    decode 0x30010020 = .error .reservedField ∧ decode 0x16180001 = .error .reservedField := by decide
theorem test_decodeTableWord : decodeTableWord 32 0x16170000 = some (.round 23) ∧ decodeTableWord 32 0x16170001 = none := by
  decide

/-! ### The datapath commands -/

/-- V21: the top bit of a column wraps to bit 0. -/
theorem test_theta_wraps :
    lanesOf (exec .theta (withLanes (oneLane 17 0x8000000000000000))) = some
      [0, 1, 0, 0x8000000000000000, 0, 0, 1, 0, 0x8000000000000000, 0, 0, 1, 0, 0x8000000000000000, 0,
       0, 1, 0x8000000000000000, 0x8000000000000000, 0, 0, 1, 0, 0x8000000000000000, 0] := by decide

/-- V22: the first row of theta on T. -/
theorem test_theta_T :
    (List.range 5).map (laneOf (exec .theta (withLanes stateT))) =
      [some 0xDEDCDAD8D6D4D2D0, some 0x464442404E4C4A48, some 0x666462606E6C6A68, some 0xE6E4E2E0EEECEAE8,
       some 0x777573717F7D7B79] := by decide

/-- V24: bit 63 of every lane; only lane (0,0) keeps it. -/
theorem test_rho_top_bits :
    lanesOf (exec .rho (withLanes (Vector.replicate 25 0x8000000000000000))) = some
      [0x8000000000000000, 0x0000000000000001, 0x2000000000000000, 0x0000000008000000, 0x0000000004000000,
       0x0000000800000000, 0x0000080000000000, 0x0000000000000020, 0x0040000000000000, 0x0000000000080000,
       0x0000000000000004, 0x0000000000000200, 0x0000040000000000, 0x0000000001000000, 0x0000004000000000,
       0x0000010000000000, 0x0000100000000000, 0x0000000000004000, 0x0000000000100000, 0x0000000000000080,
       0x0000000000020000, 0x0000000000000002, 0x1000000000000000, 0x0080000000000000, 0x0000000000002000] := by
  decide

/-- V26: each place shows the number of the lane that moved there. -/
theorem test_pi_numbered :
    lanesOf (exec .pi (withLanes numbered)) = some
      [0, 6, 12, 18, 24, 3, 9, 10, 16, 22, 1, 7, 13, 19, 20, 4, 5, 11, 17, 23, 2, 8, 14, 15, 21] := by decide

/-- V28: column x = 1 of rhopi on T. -/
theorem test_rhopi_T :
    [1, 6, 11, 16, 21].map (laneOf (exec .rhopi (withLanes stateT))) =
      [some 0x2313037363534333, some 0xD4C4B4A49484F4E4, some 0xCF8F4F0ECE8E4E0F, some 0xB2A29282F2E2D2C2,
       some 0xA023A322A221A120] := by decide

/-- V29: the row that tells a snapshot from an update in place. -/
theorem test_chi_snapshot :
    (List.range 5).map (laneOf (exec .chi (withLanes
      (((oneLane 0 0xFFFFFFFFFFFFFFFF).setReg 2 0xFFFFFFFFFFFFFFFF).setReg 3 0x00000000FFFFFFFF |>.setReg 4 0xAAAAAAAAAAAAAAAA)))) =
      [some 0, some 0, some 0x55555555FFFFFFFF, some 0x55555555AAAAAAAA, some 0xAAAAAAAAAAAAAAAA] := by decide

/-- V30: the first column of chi on T. -/
theorem test_chi_T :
    [0, 5, 10, 15, 20].map (laneOf (exec .chi (withLanes stateT))) =
      [some 0x1716151413121110, some 0x2726252423222120, some 0x7776757473727170, some 0x7776757473727170,
       some 0xB7B6B5B4B3B2B1B0] := by decide

/-- V31, and lane 1 untouched. -/
theorem test_iota_5_23 :
    laneOf (exec (.iota 5) (withLanes stateT)) 0 = some 0x0706050483020101 ∧
    laneOf (exec (.iota 23) (withLanes stateT)) 0 = some 0x8706050483028108 ∧
    laneOf (exec (.iota 23) (withLanes stateT)) 1 = some 0x0F0E0D0C0B0A0908 := by decide
/-- V72. -/
theorem test_iota_24_faults : statusOf (exec (.iota 24) State.reset) = some 0x00000024 := by decide

/-- V32: the first row of ROUND 0 on T. -/
theorem test_round_T :
    (List.range 5).map (laneOf (exec (.round 0) (withLanes stateT))) =
      [some 0x7E0C1AC8F6C4D241, some 0x4A2B0BEB8BAACA6A, some 0xC030E3D38272A090, some 0xD7145494DC1D5F9D,
       some 0x65C762C067C560C2] := by decide
/-- V72. -/
theorem test_round_255_faults : statusOf (exec (.round 255) State.reset) = some 0x00000024 := by decide

/-- V3 and program P1: Keccak-f[1600] on the zero state, the first and the last lane and the column x = 2. -/
theorem test_permute_zero :
    [0, 24, 2, 7, 12, 17, 22].map (laneOf (exec .permute State.reset)) =
      [some 0xF1258F7940E1DDE7, some 0xEAF1FF7B5CECA249, some 0xD598261EA65AA9EE, some 0x8C5BDA0CD6192E76,
       some 0x81A57C16DBCF555F, some 0x613670957BC46611, some 0x16F53526E70465C2] := by
  decide +kernel

/-! ### The sponge commands -/

/-- 41_sponge.md R131. -/
theorem test_init :
    nextOf (exec .init { State.reset with lanes := numbered, phase := .done, mlen := 3, mptr := 3, olen := 32 }) =
      some { State.reset with mlen := 3 } := by decide

/-- V45. -/
theorem test_absb_one_block :
    laneOf (exec .absb (withMessage 136)) 0 = some 0xD498EC4C50D2E1F1 ∧
    pointersOf (exec .absb (withMessage 136)) = some (136, 0) := by decide +kernel
/-- V73. -/
theorem test_absb_length : statusOf (exec .absb { State.reset with mlen := 135 }) = some 0x00000044 := by decide

/-- V40. -/
theorem test_absf_empty :
    laneOf (exec .absf State.reset) 0 = some 0x3C23F7860146D2C5 ∧
    statusOf (exec .absf State.reset) = some 0x00000001 := by decide +kernel
/-- V73: 136 bytes left, and MLEN below MPTR. -/
theorem test_absf_length :
    statusOf (exec .absf { State.reset with mlen := 136 }) = some 0x00000044 ∧
    statusOf (exec .absf lowered) = some 0x00000044 := by decide

/-- V42: the finalized state of "abc" (program P3 prints its first lane). -/
theorem test_absorb_abc :
    laneOf (exec .absorb abc) 0 = some 0x4FA945EA7A65034E ∧ pointersOf (exec .absorb abc) = some (3, 0) := by
  decide +kernel
/-- V72, V74. -/
theorem test_absorb_faults :
    statusOf (exec .absorb (inPhase .final)) = some 0x00000035 ∧
    statusOf (exec .absorb (narrow 101)) = some 0x00000054 := by decide

/-- V40, R140: output bytes are the front of the state, low byte of `L[0]` first. -/
theorem test_squeeze_front :
    outOf (exec (.squeeze 9) { inPhase .final with lanes := oneLane 0 0x3C23F7860146D2C5 }) 10 = some
      [some 0xC5, some 0xD2, some 0x46, some 0x01, some 0x86, some 0xF7, some 0x23, some 0x3C, some 0x00, none] ∧
    statusOf (exec (.squeeze 9) (inPhase .final)) = some 0x00000002 := by decide
/-- V72, V74. -/
theorem test_squeeze_faults :
    statusOf (exec (.squeeze 32) State.reset) = some 0x00000034 ∧
    statusOf (exec (.squeeze 32) { narrow 0 with phase := .final }) = some 0x00000065 := by decide

/-- V42, program P3. -/
theorem test_hash_abc :
    outOf (exec .hash abc) 32 = some
      ([0x4e, 0x03, 0x65, 0x7a, 0xea, 0x45, 0xa9, 0x4f, 0xc7, 0xd4, 0x7b, 0xa8, 0x26, 0xc8, 0xd6, 0x67,
        0xc0, 0xd1, 0xe6, 0xe3, 0x3a, 0x64, 0xa0, 0x36, 0xec, 0x44, 0xf5, 0x8f, 0xa1, 0x2d, 0x6c, 0x45].map some) := by
  decide +kernel
/-- V74, the rows of HASH with MSG unbacked. -/
theorem test_hash_msgAccess :
    nextOf (exec .hash (narrow 101)) = some { narrow 101 with err := true, cause := .msgAccess } := by decide

/-! ### The host operations -/

/-- V75: a recorded fault refuses everything but a HostReset; MLEN can still be written. -/
theorem test_refused :
    nextOf (issue 0x01000000 faulted) = some faulted ∧ nextOf (issue 0x15180000 faulted) = some faulted ∧
    nextOf (perform (.writeCr 1 7) faulted) = some { faulted with mlen := 7 } ∧
    nextOf (perform .reset { faulted with mlen := 7 }) = some State.reset := by decide
/-- V70. -/
theorem test_issue_illegal :
    statusOf (issue 0x00000000 State.reset) = some 0x00000014 ∧
    statusOf (issue 0x30010020 (inPhase .final)) = some 0x00000015 := by decide
/-- 10_state.md R22. -/
theorem test_lane_access :
    nextOf (perform (.writeLane 24 5) State.reset) = some { State.reset with lanes := oneLane 24 5 } ∧
    nextOf (perform (.readLane 24) (withLanes numbered)) = some { withLanes numbered with hostData := 24 } ∧
    refusalOf (perform (.readLane 25) State.reset) = some .noSuchLane := by decide
/-- 10_state.md R28, R29. -/
theorem test_register_access :
    nextOf (perform (.readCr 0) { inPhase .final with err := true, cause := .outAccess }) =
      some { inPhase .final with err := true, cause := .outAccess, hostData := 0x65 } ∧
    nextOf (perform (.writeCr 2 9) State.reset) = some State.reset ∧
    refusalOf (perform (.readCr 4) State.reset) = some .noSuchControlRegister := by decide
/-- 20_memory.md R52, R53. -/
theorem test_memories :
    nextOf (perform (.writeMsg 0xFFFFFFFFFFFFFFFF 7) State.reset) =
      some { State.reset with msg := [(18446744073709551615, 7)] } ∧
    refusalOf (perform (.writeMsg 100 7) (narrow 0)) = some .msgAddressNotBacked ∧
    nextOf (perform (.readOut 1) { State.reset with out := [(0, 1), (1, 2)] }) =
      some { State.reset with out := [(0, 1), (1, 2)], hostData := 2 } ∧
    nextOf (perform (.readOut 65535) State.reset) = none := by decide
/-- 10_state.md R23, the worked example. -/
theorem test_byte_view :
    (stateT.byte 0, stateT.byte 7, stateT.byte 199) = (0x00, 0x07, 0xC7) ∧
    (Lanes.zero.xorByte 135 0x80).xy 1 3 = 0x8000000000000000 := by decide
/-- A memory keeps its canonical form. -/
theorem test_writeRun :
    Memory.writeRun [(1, 9), (3, 9), (7, 9)] 2 [4, 5] = [(1, 9), (2, 4), (3, 5), (7, 9)] ∧
    Memory.eraseRun [(1, 9), (3, 9), (7, 9)] 0 4 = [(7, 9)] := by decide
/-- The word placed is the one the next step runs. -/
theorem test_withFetchWord :
    nextOf (step (State.reset.withFetchWord 32 0x15180000)) =
      some { State.reset with err := true, cause := .badOperand } := by
  decide
/-- V10, V11. -/
theorem test_tables :
    (List.range 8).map lfsrValue = [0x01, 0x02, 0x04, 0x08, 0x10, 0x20, 0x40, 0x80] ∧ lfsrValue 8 = 0x71 ∧
    rot 1 0 = 1 ∧ rot 2 0 = 62 ∧ rot 1 1 = 44 ∧ rot 4 4 = 14 ∧ dst 1 0 = (0, 2) ∧ dst 1 1 = (1, 0) := by decide
/-- 42_digest_format.md: nibble order and the leading zero. -/
theorem test_hexDigest : hexDigest [0xC5, 0x03] = ['c', '5', '0', '3'] := by decide
/-- 30_encoding.md R89. -/
theorem test_pseudo :
    ((Pseudo.steps 5).expand.map encode) = [0x10000000, 0x13000000, 0x14000000, 0x15050000] ∧
    (ListingLine.pseudo .keccak256).ops = [.issue 0x40000000] := by decide

/-! ### Witnesses: each obligation's hypotheses can be met, every clause, at the ends of its ranges -/

/-- Every MSG address is backed on the platform of reset. -/
theorem msgBacked_of_full {s : State} (hp : s.platform = Platform.full) {a : Nat} (h : a < 2 ^ 64) :
    s.msgBacked a = true := by
  rw [State.msgBacked, hp]
  simp [Platform.full, Region.holds, show a < 18446744073709551616 from h]

/-- Every OUT address is backed on the platform of reset. -/
theorem outBacked_of_full {s : State} (hp : s.platform = Platform.full) {a : Nat} (h : a < 65535) :
    s.outBacked a = true := by
  rw [State.outBacked, hp]
  simp [Platform.full, Region.holds, h]

/-- `EncodeDecode`, `OpcodeMapMatchAndMask`: a word that decodes, with the highest operand. -/
theorem witness_decodes : decode 0x3000FFFF = .ok (.squeeze 65535) := by decide

/-- `IssueLineByLine`, `CauseIsTheFirstThatApplies`: a fault recorded; an unknown opcode; a reserved field; a command. -/
theorem witness_issueLines :
    faulted.err = true ∧ State.reset.err = false ∧
    opField 0xFF000000 = 0xFF ∧ opField 0x40000001 = 0x40 ∧ bField 0x40000001 ≠ 0 ∧ opField 0x20010000 = 0x20 ∧
    aField 0x20010000 ≠ 0 ∧ decode 0x40000000 = .ok .hash := by decide

/-- `StepRunsDecodedCommand`: an issued word is pending; and an operation that is no command. -/
theorem witness_pending :
    (State.reset.withFetchWord 32 0x40000000).host = [.issue 0x40000000] ∧ decode 0x40000000 = .ok .hash ∧
    ({ State.reset with host := [.writeLane 24 5, .reset] } : State).host = .writeLane 24 5 :: [.reset] := by decide

/-- `IdleStepChangesNothing`: nothing pending. -/
theorem witness_idle : State.reset.host = [] := by decide

/-- The datapath statements, `InitAgainstReset`, `BadOperandExactly`, `BadPhaseExactly`, `BadLengthExactly`: no fault
recorded; and recorded; a legal index, least and greatest; an illegal one, least and greatest. -/
theorem witness_datapath :
    State.reset.err = false ∧ faulted.err = true ∧ (0 : BitVec 8).toNat < 24 ∧ (23 : BitVec 8).toNat < 24 ∧
    24 ≤ (24 : BitVec 8).toNat ∧ 24 ≤ (255 : BitVec 8).toNat ∧ (Instr.round 23).datapath = true ∧
    (Instr.round 23).wf = true ∧ (Instr.iota 24).datapath = true ∧ (Instr.iota 24).wf = false := by decide

/-- `ThetaLanes`, `RhoLanes`, `PiLanes`, `XorinByBytesAndByLanes`, `PaddingOfAnySuffix`, `SqueezeByteByByte`: the ends of
the ranges of numbers. -/
theorem witness_ranges :
    (63 < 64) ∧ (23 < 24) ∧ (([] : List Byte).length ≤ 136) ∧ ((List.replicate 136 (0 : Byte)).length ≤ 136) ∧
    ((0x80 : Byte).getLsbD 7 = true) ∧ ((0x01 : Byte).getLsbD 7 = false) ∧ 135 ≤ 135 ∧ 1 ≤ 137 := by simp

/-- `AbsbAbsorbsOneBlock`: exactly one block, backed; and the last block below the top of MSG. -/
theorem witness_absb :
    (withMessage 136).err = false ∧ (withMessage 136).phase = .absorb ∧
    (withMessage 136).mptr.toNat + 136 ≤ (withMessage 136).mlen.toNat ∧
    (∀ i, i < 136 → (withMessage 136).msgBacked ((withMessage 136).mptr.toNat + i) = true) ∧
    (let s : State := { State.reset with mlen := 0xFFFFFFFFFFFFFFFF, mptr := 0xFFFFFFFFFFFFFF77 }
     s.mptr.toNat + 136 ≤ s.mlen.toNat ∧ ∀ i, i < 136 → s.msgBacked (s.mptr.toNat + i) = true) := by
  refine ⟨rfl, rfl, by decide, fun i hi => msgBacked_of_full rfl ?_, by decide, fun i hi => msgBacked_of_full rfl ?_⟩
  · show 0 + i < _; omega
  · show 0xFFFFFFFFFFFFFF77 + i < _; omega

/-- `AbsfAbsorbsTheRemainder`: an empty remainder and the longest one. -/
theorem witness_absf :
    State.reset.mptr.toNat + 0 = State.reset.mlen.toNat ∧ (withMessage 135).mptr.toNat + 135 = (withMessage 135).mlen.toNat ∧
    (withMessage 135).err = false ∧ (withMessage 135).phase = .absorb ∧
    ∀ i, i < 135 → (withMessage 135).msgBacked ((withMessage 135).mptr.toNat + i) = true := by
  refine ⟨rfl, by decide, rfl, rfl, fun i hi => msgBacked_of_full rfl ?_⟩
  show 0 + i < _; omega

/-- `AbsorbFinalizes`, `AbsorbIsBlocksThenRemainder`: two full blocks and no remainder, some of it absorbed already. -/
theorem witness_absorb :
    let s : State := { withMessage 272 with mptr := 136 }
    s.err = false ∧ s.phase = .absorb ∧ s.mptr.toNat ≤ s.mlen.toNat ∧
    ∀ a, s.mptr.toNat ≤ a → a < s.mlen.toNat → s.msgBacked a = true := by
  refine ⟨rfl, rfl, by decide, fun a _ ha => msgBacked_of_full rfl ?_⟩
  have : a < 272 := ha
  omega

/-- `InitAbsorbIsAbsorbFunction`, `LaunchPremisesGiveTheDigest`, `HashForgetsHistory`: "abc" in MSG, OUT backed, one of
the command sequences; the empty message; a second engine in another state. -/
theorem witness_launch :
    abc.err = false ∧ abc.holdsMessage [0x61, 0x62, 0x63] ∧ abc.outReady 32 ∧ State.reset.holdsMessage [] ∧
    [.init, .absf, .squeeze 32] ∈ hashSequences 3 ∧
    (let t : State := { abc with lanes := numbered, phase := .done, olen := 5, mptr := 3 }
     t.err = false ∧ t.holdsMessage [0x61, 0x62, 0x63] ∧ t.outReady 32) := by
  refine ⟨rfl, ⟨rfl, rfl⟩, fun j hj => outBacked_of_full rfl (by omega), ⟨rfl, rfl⟩, by decide, rfl, ⟨rfl, rfl⟩,
    fun j hj => outBacked_of_full rfl (by omega)⟩

/-- `InitAbsorbIsAbsorbFunction`, the loop: a full block, and less. -/
theorem witness_absorbLoop :
    136 ≤ (List.replicate 136 (0 : Byte)).length ∧ (List.replicate 135 (0 : Byte)).length < 136 := by simp

/-- `SqueezeWritesItsOutput`: the longest output. -/
theorem witness_squeeze :
    (inPhase .final).err = false ∧ (inPhase .final).phase = .final ∧
    ∀ j, j < (65535 : BitVec 16).toNat → (inPhase .final).outBacked j = true :=
  ⟨rfl, rfl, fun _ hj => outBacked_of_full rfl hj⟩

/-- `HashWritesTheDigest`, `HashIsInitAbsorbSqueeze`: in phase DONE, with a message. -/
theorem witness_hash :
    let s : State := { withMessage 137 with phase := .done }
    s.err = false ∧ (∀ a, a < s.mlen.toNat → s.msgBacked a = true) ∧ ∀ j, j < 32 → s.outBacked j = true := by
  refine ⟨rfl, fun a ha => msgBacked_of_full rfl ?_, fun j hj => outBacked_of_full rfl (by omega)⟩
  have : a < 137 := ha
  omega

/-- `ControlIgnoresData`, `CommandDependsOnNothingElse`: two different states that agree where they must. -/
theorem witness_twoStates :
    abc.sameControl { abc with lanes := numbered } ∧ abc ≠ { abc with lanes := numbered } ∧
    abc.sameEngine { abc with out := [(0, 1)] } ∧ abc ≠ { abc with out := [(0, 1)] } ∧
    ∀ a, a < abc.mlen.toNat → abc.msgByte a = ({ abc with out := [(0, 1)] } : State).msgByte a := by
  refine ⟨⟨rfl, rfl, rfl, rfl, rfl, rfl⟩, by decide, ⟨rfl, rfl, rfl, rfl, rfl, rfl, rfl⟩, by decide, fun _ _ => rfl⟩

/-- `BadOperandExactly`, `BadPhaseExactly`, `BadLengthExactly`, `FaultsArePrecise`: each side of each clause happens. -/
theorem witness_faults :
    nextOf (exec (.round 24) State.reset) = some (State.reset.setFault true .badOperand) ∧
    nextOf (exec .absb (inPhase .done)) = some ((inPhase .done).setFault true .badPhase) ∧
    nextOf (exec (.squeeze 0) State.reset) = some (State.reset.setFault true .badPhase) ∧
    nextOf (exec .absb (withMessage 135)) = some ((withMessage 135).setFault true .badLength) ∧
    nextOf (exec .absf (withMessage 136)) = some ((withMessage 136).setFault true .badLength) ∧
    nextOf (exec .absorb lowered) = some (lowered.setFault true .badLength) := by decide

/-- `AccessFaults`: each clause, at the first address that is not backed. -/
theorem witness_access :
    (narrow 136).err = false ∧ (narrow 136).phase = .absorb ∧ (narrow 136).mptr.toNat + 136 ≤ (narrow 136).mlen.toNat ∧
    (narrow 136).msgBacked ((narrow 136).mptr.toNat + 100) = false ∧
    (narrow 101).mlen.toNat - (narrow 101).mptr.toNat < 136 ∧ (narrow 101).mptr.toNat ≤ 100 ∧
    100 < (narrow 101).mlen.toNat ∧ (narrow 101).msgBacked 100 = false ∧
    (∀ a, a < (narrow 100).mlen.toNat → (narrow 100).msgBacked a = true) ∧ (narrow 100).outBacked 16 = false ∧
    16 < (17 : BitVec 16).toNat := by decide

/-- `OutAccessLeavesNoDefinedBytes`, `FaultsArePrecise`: a SQUEEZE that takes OUT_ACCESS. -/
theorem witness_outAccess :
    ∃ t, exec (.squeeze 17) { narrow 0 with phase := .final } = .next t ∧ t.err = true ∧ t.cause = .outAccess :=
  ⟨_, rfl, rfl, rfl⟩

/-- `CauseIsTheFirstThatApplies`: its two examples. -/
theorem witness_priority :
    (inPhase .done).phase = .done ∧ ({ lowered with phase := .final } : State).mlen.toNat < lowered.mptr.toNat := by decide

/-- `RecordedFaultRefusesEverything`, `OnlyResetClearsAFault`: a fault, and a HostReset that clears it. -/
theorem witness_recovery :
    faulted.err = true ∧
    nextOf (step { faulted with host := [.reset] }) = some State.reset ∧ State.reset.err = false := by decide

/-- `PhaseTransitions`, `WhatCommandsLeaveAlone`: a command that completes, and host writes that do. -/
theorem witness_transitions :
    nextOf (exec (.squeeze 0) (inPhase .final)) = some (inPhase .done) ∧
    nextOf (perform (.writeLane 0 0) (inPhase .final)) = some (inPhase .final) ∧
    nextOf (perform (.writeCr 1 0) (inPhase .final)) = some (inPhase .final) ∧
    nextOf (perform .reset (inPhase .final)) = some State.reset := by decide

/-- `MptrStaysWithinMlen`: an ABSB, an ABSF and an ABSORB that complete. -/
theorem witness_mptr :
    (∃ t, exec .absb (withMessage 136) = .next t ∧ t.err = false) ∧
    (∃ t, exec .absf (withMessage 135) = .next t ∧ t.err = false) ∧
    (∃ t, exec .absorb (withMessage 137) = .next t ∧ t.err = false) := ⟨⟨_, rfl, rfl⟩, ⟨_, rfl, rfl⟩, ⟨_, rfl, rfl⟩⟩

/-- `MessageMemory`, `OutputMemory`: the highest MSG address; an address that is not backed; a listed and an unlisted
byte of OUT, its last address and the first above it. -/
theorem witness_memories :
    State.reset.msgBacked (0xFFFFFFFFFFFFFFFF : Word).toNat = true ∧ (narrow 0).msgBacked (100 : Word).toNat = false ∧
    (narrow 0).readMsg 99 2 = none ∧ (narrow 0).readMsg 99 1 ≠ none ∧
    ({ State.reset with out := [(65534, 1)] } : State).out.read? 65534 = some 1 ∧ State.reset.out.read? 65534 = none ∧
    65534 < 65535 := by
  refine ⟨msgBacked_of_full rfl (by decide), by decide, by decide, ?_, by decide, by decide, by decide⟩
  rw [State.readMsg_of_backed (by decide)]; simp

/-- `EveryStepKeepsTheInvariant`: the invariant holds of a state that is not reset, and it takes a step. -/
theorem witness_invariant :
    ({ faulted with host := [.reset], out := [(0, 1)], olen := 1, phase := .done } : State).Inv ∧
    (∃ t, step { faulted with host := [.reset], out := [(0, 1)], olen := 1, phase := .done } = .next t) := by
  refine ⟨⟨by decide, by decide, by decide, by decide, by decide, by decide, ?_⟩, ⟨_, rfl⟩⟩
  intro c hc
  have : c.1 = 0 := by rw [List.mem_singleton.1 hc]
  exact outBacked_of_full rfl (by omega)

/-- `HexRoundTrip`: the first and the last byte of a digest; a text of 63 characters. -/
theorem witness_hex :
    0 < (hashOf []).length ∧ 31 < (hashOf []).length ∧ (List.replicate 63 'a').length = 63 :=
  ⟨by simp, by simp, by decide⟩

end Sys2Proof.Tests
end

section
/-! What a command can do, for all commands at once, with the values it computes for lanes and bytes left open: the
frames and invariants of 10_state.md are case analyses of it. -/

namespace Sys2Proof.Machine

/-- The next states of a command: refused (60_exceptions.md R179), a precise fault (R176), OUT_ACCESS with its bytes of
OUT unspecified (R177), or completed, in the shape of its row. -/
inductive CommandEffect (s : State) : Instr → State → Prop where
  | refused (i : Instr) (he : s.err = true) : CommandEffect s i s
  | faulted (i : Instr) (he : s.err = false) (c : Cause) (hc : c ≠ .none) : CommandEffect s i (s.setFault true c)
  | outAccess (i : Instr) (he : s.err = false) (hi : i = .hash ∨ ∃ len, i = .squeeze len) (n : Nat) :
      CommandEffect s i ((s.spoilOut n).setFault true .outAccess)
  | lanes (i : Instr) (he : s.err = false) (hi : i.datapath = true) (A : Lanes) : CommandEffect s i (s.setLanes A)
  | init (he : s.err = false) :
      CommandEffect s .init ((((s.setLanes Lanes.zero).setPhase .absorb).setMptr 0).setOlen 0)
  | absorbedBlock (he : s.err = false) (hp : s.phase = .absorb) (hl : s.mptr.toNat + 136 ≤ s.mlen.toNat) (A : Lanes) :
      CommandEffect s .absb ((s.setLanes A).setMptr (s.mptr + 136))
  | finalized (i : Instr) (he : s.err = false) (hi : i = .absf ∨ i = .absorb) (hp : s.phase = .absorb)
      (hl : s.mptr.toNat ≤ s.mlen.toNat) (A : Lanes) : CommandEffect s i (s.finalize A)
  | squeezed (he : s.err = false) (hp : s.phase = .final) (len : BitVec 16) (bs : List Byte)
      (hbs : bs.length = len.toNat) (hb : ∀ j, j < bs.length → s.outBacked j = true) (A : Lanes) :
      CommandEffect s (.squeeze len) ((((s.setOut (s.out.writeRun 0 bs)).setLanes A).setOlen len).setPhase .done)
  | hashed (he : s.err = false) (bs : List Byte) (hbs : bs.length = 32)
      (hb : ∀ j, j < bs.length → s.outBacked j = true) (A : Lanes) :
      CommandEffect s .hash
        (((((s.setMptr s.mlen).setOut (s.out.writeRun 0 bs)).setLanes A).setOlen 32).setPhase .done)

theorem CommandEffect.of_mapLanes {f : Lanes → Lanes} {i : Instr} (hi : i.datapath = true) {s t : State}
    (h : mapLanes f s = .next t) : CommandEffect s i t := by
  obtain ⟨he, rfl⟩ | ⟨he, rfl⟩ := mapLanes_cases h
  · exact .refused i he
  · exact .lanes i he hi _

theorem CommandEffect.of_mapLanesIndexed {f : Lanes → Fin 24 → Lanes} {ir : BitVec 8} {i : Instr}
    (hi : i.datapath = true) {s t : State} (h : mapLanesIndexed f ir s = .next t) : CommandEffect s i t := by
  obtain ⟨he, rfl⟩ | ⟨he, -, rfl⟩ | ⟨he, -, rfl⟩ := mapLanesIndexed_cases h
  · exact .refused i he
  · exact .faulted i he _ nofun
  · exact .lanes i he hi _

theorem CommandEffect.of_execInit {s t : State} (h : execInit s = .next t) : CommandEffect s .init t := by
  obtain ⟨he, rfl⟩ | ⟨he, rfl⟩ := execInit_cases h
  · exact .refused _ he
  · exact .init he

theorem CommandEffect.of_execAbsb {s t : State} (h : execAbsb s = .next t) : CommandEffect s .absb t := by
  obtain ⟨he, rfl⟩ | ⟨he, -, rfl⟩ | ⟨he, -, -, rfl⟩ | ⟨he, -, -, -, rfl⟩ | ⟨he, hp, hl, -, rfl⟩ := execAbsb_cases h
  · exact .refused _ he
  · exact .faulted _ he _ nofun
  · exact .faulted _ he _ nofun
  · exact .faulted _ he _ nofun
  · exact .absorbedBlock he hp hl _

theorem CommandEffect.of_execAbsf {s t : State} (h : execAbsf s = .next t) : CommandEffect s .absf t := by
  obtain ⟨he, rfl⟩ | ⟨he, -, rfl⟩ | ⟨he, -, -, rfl⟩ | ⟨he, -, -, -, -, rfl⟩ | ⟨he, hp, hl, -, -, rfl⟩ :=
    execAbsf_cases h
  · exact .refused _ he
  · exact .faulted _ he _ nofun
  · exact .faulted _ he _ nofun
  · exact .faulted _ he _ nofun
  · exact .finalized _ he (.inl rfl) hp hl _

theorem CommandEffect.of_execAbsorb {s t : State} (h : execAbsorb s = .next t) : CommandEffect s .absorb t := by
  obtain ⟨he, rfl⟩ | ⟨he, -, rfl⟩ | ⟨he, -, -, rfl⟩ | ⟨he, -, -, -, rfl⟩ | ⟨he, hp, hl, -, rfl⟩ := execAbsorb_cases h
  · exact .refused _ he
  · exact .faulted _ he _ nofun
  · exact .faulted _ he _ nofun
  · exact .faulted _ he _ nofun
  · exact .finalized _ he (.inr rfl) hp hl _

theorem CommandEffect.of_execSqueeze {len : BitVec 16} {s t : State} (h : execSqueeze len s = .next t) :
    CommandEffect s (.squeeze len) t := by
  obtain ⟨he, rfl⟩ | ⟨he, -, rfl⟩ | ⟨he, -, -, rfl⟩ | ⟨he, hp, hb, rfl⟩ := execSqueeze_cases h
  · exact .refused _ he
  · exact .faulted _ he _ nofun
  · exact .outAccess _ he (.inr ⟨len, rfl⟩) _
  · exact .squeezed he hp len _ (length_squeeze _ _) (by simpa using hb) _

theorem CommandEffect.of_execHash {s t : State} (h : execHash s = .next t) : CommandEffect s .hash t := by
  obtain ⟨he, rfl⟩ | ⟨he, -, rfl⟩ | ⟨he, -, -, rfl⟩ | ⟨he, -, hb, rfl⟩ := execHash_cases h
  · exact .refused _ he
  · exact .faulted _ he _ nofun
  · exact .outAccess _ he (.inl rfl) _
  · exact .hashed he _ (Lanes.length_front _ _) (by simpa using hb) _

theorem exec_effect {i : Instr} {s t : State} (h : exec i s = .next t) : CommandEffect s i t := by
  cases i with
  | init => exact .of_execInit h
  | theta => exact .of_mapLanes rfl h
  | rho => exact .of_mapLanes rfl h
  | pi => exact .of_mapLanes rfl h
  | rhopi => exact .of_mapLanes rfl h
  | chi => exact .of_mapLanes rfl h
  | iota ir => exact .of_mapLanesIndexed rfl h
  | round ir => exact .of_mapLanesIndexed rfl h
  | permute => exact .of_mapLanes rfl h
  | absb => exact .of_execAbsb h
  | absf => exact .of_execAbsf h
  | absorb => exact .of_execAbsorb h
  | squeeze len => exact .of_execSqueeze h
  | hash => exact .of_execHash h

end Sys2Proof.Machine
end

section
/-! What keeps the invariant of State: the updates of fields it does not read, a fault, the delivery of output, the way
to phase FINAL, HostReset; then every command, every host operation, every step. -/

namespace Sys2Proof.Machine

/-- The invariant reads neither the lanes, MLEN, MPTR nor the model's own fields. -/
theorem State.Inv.congr {s t : State} (hi : s.Inv) (phase : t.phase = s.phase) (err : t.err = s.err)
    (cause : t.cause = s.cause) (olen : t.olen = s.olen) (msg : t.msg = s.msg) (out : t.out = s.out)
    (platform : t.platform = s.platform) : t.Inv where
  cause_recorded := by rw [err, cause]; exact hi.cause_recorded
  no_output_before_done := by rw [phase, olen]; exact hi.no_output_before_done
  output_defined := by rw [err, olen, out]; exact hi.output_defined
  msg_wf := by rw [msg]; exact hi.msg_wf
  out_wf := by rw [out]; exact hi.out_wf
  msg_backed := by simp only [msg, State.msgBacked_congr platform]; exact hi.msg_backed
  out_backed := by simp only [out, State.outBacked_congr platform]; exact hi.out_backed

theorem State.Inv.setLanes {s : State} (hi : s.Inv) (A : Lanes) : (s.setLanes A).Inv :=
  hi.congr rfl rfl rfl rfl rfl rfl rfl

theorem State.Inv.setMptr {s : State} (hi : s.Inv) (v : Word) : (s.setMptr v).Inv :=
  hi.congr rfl rfl rfl rfl rfl rfl rfl

theorem State.Inv.setHost {s : State} (hi : s.Inv) (ops : List HostOp) : (s.setHost ops).Inv :=
  hi.congr rfl rfl rfl rfl rfl rfl rfl

theorem State.Inv.setHostData {s : State} (hi : s.Inv) (v : Word) : (s.setHostData v).Inv :=
  hi.congr rfl rfl rfl rfl rfl rfl rfl

/-- Recording a fault keeps the invariant, also when bytes of OUT lose their value: with a fault recorded, OLEN claims
nothing about OUT. -/
theorem State.Inv.setOut_setFault {s : State} (hi : s.Inv) {c : Cause} (hc : c ≠ .none) {m : Memory} (hw : m.wf)
    (hm : ∀ x ∈ m, x ∈ s.out) : ((s.setOut m).setFault true c).Inv where
  cause_recorded := by simp [hc]
  no_output_before_done := hi.no_output_before_done
  output_defined := nofun
  msg_wf := hi.msg_wf
  out_wf := hw
  msg_backed := hi.msg_backed
  out_backed := fun x hx => hi.out_backed x (hm x hx)

theorem State.Inv.setFault {s : State} (hi : s.Inv) {c : Cause} (hc : c ≠ .none) : (s.setFault true c).Inv :=
  hi.setOut_setFault hc hi.out_wf fun _ h => h

theorem State.Inv.spoilOut_setFault {s : State} (hi : s.Inv) {c : Cause} (hc : c ≠ .none) (n : Nat) :
    ((s.spoilOut n).setFault true c).Inv :=
  hi.setOut_setFault hc (Memory.eraseRun_wf hi.out_wf 0 n) fun _ => Memory.mem_eraseRun

/-- With OLEN = 0 every phase agrees with the invariant. -/
theorem State.Inv.setPhase_of_olen {s : State} (hi : s.Inv) (ho : s.olen = 0) (p : Phase) : (s.setPhase p).Inv where
  cause_recorded := hi.cause_recorded
  no_output_before_done := fun _ => ho
  output_defined := hi.output_defined
  msg_wf := hi.msg_wf
  out_wf := hi.out_wf
  msg_backed := hi.msg_backed
  out_backed := hi.out_backed

theorem State.Inv.setOlen_zero {s : State} (hi : s.Inv) : (s.setOlen 0).Inv where
  cause_recorded := hi.cause_recorded
  no_output_before_done := fun _ => rfl
  output_defined := fun _ a ha => absurd ha (Nat.not_lt_zero a)
  msg_wf := hi.msg_wf
  out_wf := hi.out_wf
  msg_backed := hi.msg_backed
  out_backed := hi.out_backed

/-- Writing OUT[0 .. L-1], all backed, and setting OLEN to L. -/
theorem State.Inv.delivered {s : State} (hi : s.Inv) {bs : List Byte} {len : BitVec 16} (hbs : bs.length = len.toNat)
    (hb : ∀ j, j < bs.length → s.outBacked j = true) (A : Lanes) :
    ((((s.setOut (s.out.writeRun 0 bs)).setLanes A).setOlen len).setPhase .done).Inv where
  cause_recorded := hi.cause_recorded
  no_output_before_done := fun h => absurd rfl h
  output_defined := by
    intro _ a ha
    have ha : a < bs.length := hbs ▸ ha
    simp [Memory.read?_writeRun, ha]
  msg_wf := hi.msg_wf
  out_wf := Memory.writeRun_wf hi.out_wf 0 bs
  msg_backed := hi.msg_backed
  out_backed := by
    intro c hc
    rcases Memory.mem_writeRun hc with hc | ⟨-, hc⟩
    · exact hi.out_backed c hc
    · exact hb c.1 (by omega)

theorem State.Inv.hostReset {s : State} (hi : s.Inv) : (Machine.hostReset s).Inv where
  cause_recorded := by simp
  no_output_before_done := fun _ => rfl
  output_defined := fun _ a ha => absurd ha (Nat.not_lt_zero a)
  msg_wf := hi.msg_wf
  out_wf := hi.out_wf
  msg_backed := hi.msg_backed
  out_backed := hi.out_backed

theorem State.Inv.writeMsg {s : State} (hi : s.Inv) {a : Nat} (ha : s.msgBacked a = true) (v : Byte) :
    (s.setMsg (s.msg.writeRun a [v])).Inv where
  cause_recorded := hi.cause_recorded
  no_output_before_done := hi.no_output_before_done
  output_defined := hi.output_defined
  msg_wf := Memory.writeRun_wf hi.msg_wf a [v]
  out_wf := hi.out_wf
  msg_backed := by
    intro c hc
    rcases Memory.mem_writeRun hc with hc | ⟨hl, hu⟩
    · exact hi.msg_backed c hc
    · simp only [List.length_singleton] at hu
      obtain rfl : c.1 = a := by omega
      exact ha
  out_backed := hi.out_backed

theorem CommandEffect.keeps_inv {i : Instr} {s t : State} (h : CommandEffect s i t) (hi : s.Inv) : t.Inv := by
  cases h with
  | refused _ _ => exact hi
  | faulted _ _ c hc => exact hi.setFault hc
  | outAccess _ _ _ n => exact hi.spoilOut_setFault (c := .outAccess) nofun n
  | lanes _ _ _ A => exact hi.setLanes A
  | init _ => exact ((hi.setLanes Lanes.zero).setMptr 0).setOlen_zero.setPhase_of_olen rfl .absorb
  | absorbedBlock _ _ _ A => exact (hi.setLanes A).setMptr _
  | finalized _ _ _ hp _ A =>
    have ho : s.olen = 0 := hi.no_output_before_done (by rw [hp]; nofun)
    exact ((hi.setLanes A).setMptr s.mlen).setPhase_of_olen ho .final
  | squeezed _ _ len bs hbs hb A => exact hi.delivered hbs hb A
  | hashed _ bs hbs hb A => exact (hi.setMptr s.mlen).delivered hbs hb A

theorem issue_keeps_inv {W : Command} {s t : State} (h : issue W s = .next t) (hi : s.Inv) : t.Inv := by
  cases hd : decode W with
  | ok i => exact (exec_effect (issue_of_ok hd s ▸ h)).keeps_inv hi
  | error e =>
    rw [issue_of_error hd] at h
    obtain ⟨-, rfl⟩ | ⟨-, h⟩ := accept_cases h
    · exact hi
    · rw [raise_cases h]; exact hi.setFault nofun

theorem perform_keeps_inv {op : HostOp} {s t : State} (h : perform op s = .next t) (hi : s.Inv) : t.Inv := by
  cases op with
  | reset => cases h; exact hi.hostReset
  | issue W => exact issue_keeps_inv h hi
  | readLane i => obtain ⟨-, rfl⟩ := hostReadLane_cases h; exact hi.setHostData _
  | writeLane i v => obtain ⟨-, rfl⟩ := hostWriteLane_cases h; exact hi.setLanes _
  | readCr n => obtain ⟨v, -, rfl⟩ := hostReadCr_cases h; exact hi.setHostData v
  | writeCr n v =>
    obtain ⟨-, rfl⟩ | ⟨-, rfl⟩ := hostWriteCr_cases h
    · exact hi.congr rfl rfl rfl rfl rfl rfl rfl
    · exact hi
  | writeMsg a v => obtain ⟨hb, rfl⟩ := hostWriteMsg_cases h; exact hi.writeMsg hb v
  | readOut a =>
    obtain ⟨-, ⟨v, -, rfl⟩ | ⟨-, v, rfl⟩⟩ := hostReadOut_cases h
    · exact hi.setHostData _
    · exact (hi.setHostData v).congr rfl rfl rfl rfl rfl rfl rfl

/-- Settles O58: an idle step changes nothing, and any other step is a host operation, each of which keeps the
invariant. -/
theorem everyStepKeepsTheInvariant : Obligations.EveryStepKeepsTheInvariant := by
  intro s t hi h
  obtain ⟨-, rfl⟩ | ⟨op, rest, -, h⟩ := step_cases h
  · exact hi
  · exact perform_keeps_inv h (hi.setHost rest)

/-- Settles O57: both memories are empty and OLEN is 0. -/
theorem invariantAtReset : Obligations.InvariantAtReset where
  cause_recorded := by decide
  no_output_before_done := fun _ => rfl
  output_defined := fun _ a ha => absurd ha (Nat.not_lt_zero a)
  msg_wf := State.reset_memories_wf.1
  out_wf := State.reset_memories_wf.2
  msg_backed := nofun
  out_backed := nofun

end Sys2Proof.Machine
end

section
/-! The statements over all commands (10_state.md R28, R30, R31, R38), each a case analysis of `CommandEffect`. -/

namespace Sys2Proof.Machine

/-- A command that meets a recorded fault or records one leaves PHASE. -/
theorem CommandEffect.phase_of_err {i : Instr} {s t : State} (h : CommandEffect s i t)
    (he : s.err = true ∨ t.err = true) : t.phase = s.phase := by
  cases h with
  | refused _ _ => rfl
  | faulted _ _ _ _ => rfl
  | outAccess _ _ _ _ => rfl
  | lanes _ _ _ _ => rfl
  | init hs => simp [hs] at he
  | absorbedBlock _ _ _ _ => rfl
  | finalized _ hs _ _ _ _ => simp [hs] at he
  | squeezed hs _ _ _ _ _ _ => simp [hs] at he
  | hashed hs _ _ _ _ => simp [hs] at he

/-- The absorb commands fault BAD_PHASE outside phase ABSORB (10_state.md R38). -/
theorem exec_absorbing_badPhase {i : Instr} (hi : i = .absb ∨ i = .absf ∨ i = .absorb) {s : State}
    (he : s.err = false) (hp : s.phase ≠ .absorb) : exec i s = .next (s.setFault true .badPhase) := by
  rcases hi with rfl | rfl | rfl <;> exact (accept_of_ok he _).trans (if_pos hp)

theorem exec_squeeze_badPhase {s : State} (he : s.err = false) (hp : s.phase ≠ .final) (len : BitVec 16) :
    exec (.squeeze len) s = .next (s.setFault true .badPhase) :=
  (accept_of_ok he _).trans (if_pos hp)

/-- Settles O46: the transitions of completing commands by the cases of `CommandEffect`; nothing else moves PHASE but
HostReset. -/
theorem phaseTransitions : Obligations.PhaseTransitions := by
  refine ⟨fun i s t h => ⟨(exec_effect h).phase_of_err, fun hs ht => ?_⟩, fun s t i v h => ?_, fun s t v h => ?_,
    fun s t h => ?_, fun s he hp => ?_, fun s len he hp => ?_⟩
  · cases exec_effect h with
    | refused _ he => simp [hs] at he
    | faulted _ _ _ _ => simp at ht
    | outAccess _ _ _ _ => simp at ht
    | lanes _ _ hi A =>
      cases i with
      | init | absb | absf | absorb | squeeze _ | hash => cases hi
      | _ => rfl
    | init _ => rfl
    | absorbedBlock _ hp _ _ => exact ⟨hp, hp⟩
    | finalized _ _ hi hp _ _ => rcases hi with rfl | rfl <;> exact ⟨hp, rfl⟩
    | squeezed _ hp _ _ _ _ _ => exact ⟨hp, rfl⟩
    | hashed _ _ _ _ _ => rfl
  · obtain ⟨-, rfl⟩ := hostWriteLane_cases h; rfl
  · obtain ⟨-, rfl⟩ | ⟨-, rfl⟩ := hostWriteCr_cases (n := 1) h <;> rfl
  · cases h; rfl
  · have hp : s.phase ≠ .absorb := by rcases hp with hp | hp <;> simp [hp]
    exact ⟨exec_absorbing_badPhase (by simp) he hp, exec_absorbing_badPhase (by simp) he hp,
      exec_absorbing_badPhase (by simp) he hp⟩
  · exact exec_squeeze_badPhase he (by rcases hp with hp | hp <;> simp [hp]) len

/-- What no command writes: MLEN, MSG, the platform and the host's side (10_state.md R30, 20_memory.md R52, R56). -/
theorem CommandEffect.frame {i : Instr} {s t : State} (h : CommandEffect s i t) :
    t.mlen = s.mlen ∧ t.msg = s.msg ∧ t.platform = s.platform ∧ t.host = s.host ∧ t.hostData = s.hostData ∧
      t.freeTick = s.freeTick := by
  cases h <;> exact ⟨rfl, rfl, rfl, rfl, rfl, rfl⟩

theorem CommandEffect.out_eq {i : Instr} {s t : State} (h : CommandEffect s i t) (hh : i ≠ .hash)
    (hq : ∀ len, i ≠ .squeeze len) : t.out = s.out := by
  cases h with
  | outAccess _ _ hi _ =>
    obtain hi | ⟨len, hi⟩ := hi
    · exact absurd hi hh
    · exact absurd hi (hq len)
  | squeezed _ _ len _ _ _ _ => exact absurd rfl (hq len)
  | hashed _ _ _ _ _ => exact absurd rfl hh
  | _ => rfl

theorem CommandEffect.mptr_eq {i : Instr} {s t : State} (h : CommandEffect s i t)
    (hi : i.datapath = true ∨ ∃ len, i = .squeeze len) : t.mptr = s.mptr := by
  cases h with
  | init _ => simp [Instr.datapath] at hi
  | absorbedBlock _ _ _ _ => simp [Instr.datapath] at hi
  | finalized _ _ hf _ _ _ => rcases hf with rfl | rfl <;> simp [Instr.datapath] at hi
  | hashed _ _ _ _ _ => simp [Instr.datapath] at hi
  | _ => rfl

theorem CommandEffect.olen_eq {i : Instr} {s t : State} (h : CommandEffect s i t)
    (hi : i.datapath = true ∨ i = .absb ∨ i = .absf ∨ i = .absorb) : t.olen = s.olen := by
  cases h with
  | init _ => simp [Instr.datapath] at hi
  | squeezed _ _ _ _ _ _ _ => simp [Instr.datapath] at hi
  | hashed _ _ _ _ _ => simp [Instr.datapath] at hi
  | _ => rfl

theorem CommandEffect.err_of_err {i : Instr} {s t : State} (h : CommandEffect s i t) (he : s.err = true) :
    t.err = true := by
  cases h with
  | faulted _ _ _ _ => rfl
  | outAccess _ _ _ _ => rfl
  | _ => exact he

/-- Settles O47: each part is a frame of `CommandEffect`. -/
theorem whatCommandsLeaveAlone : Obligations.WhatCommandsLeaveAlone := by
  intro i s t h
  have e := exec_effect h
  obtain ⟨hmlen, hmsg, hplatform, hhost, hdata, htick⟩ := e.frame
  exact ⟨hmlen, fun a => by rw [hmsg], hplatform, hhost, hdata, htick, fun hh hq a => by rw [e.out_eq hh hq],
    e.mptr_eq, e.olen_eq, e.err_of_err⟩

/-- The sum stays below `2^64` because MLEN, which bounds it, is a 64-bit value. -/
theorem toNat_mptr_add_block {s : State} (h : s.mptr.toNat + 136 ≤ s.mlen.toNat) :
    (s.mptr + 136).toNat = s.mptr.toNat + 136 := by
  have := s.mlen.isLt
  rw [BitVec.toNat_add, Nat.mod_eq_of_lt (by simpa using by omega)]
  rfl

/-- Settles O48: of the ways an absorb command can end, only the completing one leaves ERR at 0, and it has passed the
length check. -/
theorem mptrStaysWithinMlen : Obligations.MptrStaysWithinMlen := by
  intro i s t hs h ht
  cases exec_effect h with
  | refused _ he => simp [hs] at he
  | faulted _ _ _ _ => simp at ht
  | outAccess _ _ _ _ => simp at ht
  | lanes _ _ hi _ =>
    constructor
    · rintro rfl; cases hi
    · rintro (rfl | rfl) <;> cases hi
  | init _ => simp
  | absorbedBlock _ _ hl _ =>
    have hadd := toNat_mptr_add_block hl
    exact ⟨fun _ => ⟨hadd, hadd.trans_le hl⟩, by simp⟩
  | finalized _ _ hi _ hl _ => rcases hi with rfl | rfl <;> simpa using hl
  | squeezed _ _ _ _ _ _ _ => simp
  | hashed _ _ _ _ _ => simp

end Sys2Proof.Machine
end

section
/-! The byte view of the lanes (10_state.md R23). -/

namespace Sys2Proof

theorem Lanes.byte_mul_add (A : Lanes) (i : Nat) {k : Nat} (hk : k < 8) :
    A.byte (8 * i + k) = (A.reg i).extractLsb' (8 * k) 8 := by
  simp only [Lanes.byte, show (8 * i + k) / 8 = i by omega, show (8 * i + k) % 8 = k by omega]

/-- The lowest `n` bytes of `v`, little-endian. -/
theorem sum_extractLsb'_bytes (v : Word) (n : Nat) :
    ((List.range n).map fun k => (v.extractLsb' (8 * k) 8).toNat * 2 ^ (8 * k)).sum = v.toNat % 2 ^ (8 * n) := by
  induction n with
  | zero => simp [Nat.mod_one]
  | succ n ih =>
    rw [List.range_succ, List.map_append, List.sum_append, ih, Nat.mul_succ, Nat.pow_add, Nat.mod_mul]
    simp [Nat.shiftRight_eq_div_pow, Nat.mul_comm]

/-- Settles O49: each clause is a bit-level law of the byte view; the sum is the lane's base-256 expansion, whole after
eight bytes. -/
theorem byteViewIsLittleEndian : Obligations.ByteViewIsLittleEndian := by
  intro A
  refine ⟨fun i k _ hk => A.byte_mul_add i hk, fun i _ => ?_, fun i k v hi hk => ?_⟩
  · have hbytes : ((List.range 8).map fun k => (A.byte (8 * i + k)).toNat * 2 ^ (8 * k)) =
        (List.range 8).map fun k => ((A.reg i).extractLsb' (8 * k) 8).toNat * 2 ^ (8 * k) :=
      List.map_congr_left fun k hk => by rw [A.byte_mul_add i (List.mem_range.1 hk)]
    rw [hbytes, sum_extractLsb'_bytes, Nat.mod_eq_of_lt (A.reg i).isLt]
  · have hlt : 8 * i + k < 200 := by omega
    have hdiv : (8 * i + k) / 8 = i := by omega
    have hmod : (8 * i + k) % 8 = k := by omega
    refine ⟨?_, fun n _ hn => ?_, fun j _ hj => ?_, fun b _ hb => ?_⟩
    · rw [A.byte_setByte hlt, if_pos rfl]
    · rw [A.byte_setByte hlt, if_neg hn]
    · rw [Lanes.setByte, hdiv, A.reg_setReg hi, if_neg hj]
    · rw [A.getLsbD_reg_setByte hlt, hdiv, hmod, if_neg (by omega)]

end Sys2Proof
end

section
/-! Host access to lanes and control registers, the fields of STATUS, the values after reset (10_state.md R22, R28, R29,
R36). -/

namespace Sys2Proof.Machine

/-- Settles O50: an access below 25 passes the index check, and `setReg` writes that lane only. -/
theorem hostLaneAccess : Obligations.HostLaneAccess := by
  intro s i v
  refine ⟨fun hi => if_pos hi, fun hi => ⟨s.lanes.setReg i v, if_pos hi, ?_, fun j _ hj => ?_⟩, fun hi =>
    ⟨if_neg (Nat.not_lt.2 hi), if_neg (Nat.not_lt.2 hi)⟩⟩
  · rw [Lanes.reg_setReg _ hi, if_pos rfl]
  · rw [Lanes.reg_setReg _ hi, if_neg hj]

/-- Settles O51: the numbers 0 to 3 are the rows of `readCr` and `writeCr`, and a number above 3 has none. -/
theorem hostRegisterAccess : Obligations.HostRegisterAccess := by
  intro s n v
  refine ⟨rfl, rfl, rfl, rfl, rfl, rfl, rfl, rfl, fun hn => ?_⟩
  obtain ⟨m, rfl⟩ := Nat.exists_eq_add_of_le' hn
  exact ⟨rfl, rfl⟩

/-- The places of the fields in STATUS, for every value they can hold. -/
theorem statusFields_packed (c : BitVec 4) (e : Bool) (p : BitVec 2) :
    let W : BitVec 32 := c.setWidth 32 <<< 4 ||| (BitVec.ofBool e).setWidth 32 <<< 2 ||| p.setWidth 32
    W.extractLsb' 0 2 = p ∧ W.getLsbD 2 = e ∧ W.getLsbD 3 = false ∧ W.extractLsb' 4 4 = c ∧ W.extractLsb' 8 24 = 0 := by
  revert c e p; decide

theorem statusWord_fields (s : State) :
    s.statusWord.extractLsb' 0 2 = s.phase.code ∧ s.statusWord.getLsbD 2 = s.err ∧ s.statusWord.getLsbD 3 = false ∧
      s.statusWord.extractLsb' 4 4 = s.cause.code ∧ s.statusWord.extractLsb' 8 24 = 0 :=
  statusFields_packed s.cause.code s.err s.phase.code

/-- Settles O52: the fields are `statusWord_fields`; SQUEEZE in phase ABSORB faults BAD_PHASE and leaves PHASE 0, so
STATUS is `3 << 4 | 1 << 2`. -/
theorem statusWordFields : Obligations.StatusWordFields := by
  refine ⟨fun s => ?_, fun s len he hp => ⟨_, exec_squeeze_badPhase he (by simp [hp]) len, ?_⟩⟩
  · obtain ⟨hphase, herr, hbit3, hcause, hhigh⟩ := statusWord_fields s
    refine ⟨?_, herr, hbit3, ?_, hhigh⟩
    · rw [hphase]; cases s.phase <;> rfl
    · rw [hcause]; cases s.cause <;> rfl
  · rw [State.statusWord, State.setFault_phase, State.setFault_cause, State.setFault_err, hp]; decide

/-- Settles O55: State.reset has the values R36 lists; its lanes are `Lanes.zero`. -/
theorem resetValues : Obligations.ResetValues :=
  ⟨fun i _ => Lanes.reg_zero i, rfl, rfl, rfl, rfl, rfl, rfl, rfl⟩

end Sys2Proof.Machine
end

section
/-! What a command may depend on (20_memory.md R60): the engine state, the word and the message bytes. Two runs from
states that agree on these are followed side by side; with both runs the same, every command completes. -/

namespace Sys2Proof.Machine

/-! ### The same update keeps two engines the same -/

theorem State.sameEngine.setLanes {s t : State} (h : s.sameEngine t) (A : Lanes) :
    (s.setLanes A).sameEngine (t.setLanes A) := ⟨rfl, h.2⟩

theorem State.sameEngine.setPhase {s t : State} (h : s.sameEngine t) (p : Phase) :
    (s.setPhase p).sameEngine (t.setPhase p) := by
  obtain ⟨lanes, -, h⟩ := h
  exact ⟨lanes, rfl, h⟩

theorem State.sameEngine.setFault {s t : State} (h : s.sameEngine t) (e : Bool) (c : Cause) :
    (s.setFault e c).sameEngine (t.setFault e c) := by
  obtain ⟨lanes, phase, -, -, h⟩ := h
  exact ⟨lanes, phase, rfl, rfl, h⟩

theorem State.sameEngine.setMptr {s t : State} (h : s.sameEngine t) (v : Word) :
    (s.setMptr v).sameEngine (t.setMptr v) := by
  obtain ⟨lanes, phase, err, cause, mlen, -, olen⟩ := h
  exact ⟨lanes, phase, err, cause, mlen, rfl, olen⟩

theorem State.sameEngine.setOlen {s t : State} (h : s.sameEngine t) (v : BitVec 16) :
    (s.setOlen v).sameEngine (t.setOlen v) := by
  obtain ⟨lanes, phase, err, cause, mlen, mptr, -⟩ := h
  exact ⟨lanes, phase, err, cause, mlen, mptr, rfl⟩

/-- OUT is not the engine's: it may be set to different memories. -/
theorem State.sameEngine.setOut {s t : State} (h : s.sameEngine t) (m n : Memory) :
    (s.setOut m).sameEngine (t.setOut n) := h

/-! ### What a command reads -/

/-- The two states agree on all a command may depend on: the engine, the platform's backing, the message. -/
structure State.SameInputs (s t : State) : Prop where
  engine : s.sameEngine t
  platform : s.platform = t.platform
  message : ∀ a, a < s.mlen.toNat → s.msgByte a = t.msgByte a

namespace State.SameInputs

theorem refl (s : State) : s.SameInputs s := ⟨⟨rfl, rfl, rfl, rfl, rfl, rfl, rfl⟩, rfl, fun _ _ => rfl⟩

variable {s t : State} (h : s.SameInputs t)
include h

theorem lanes : t.lanes = s.lanes := h.engine.1.symm

theorem phase : t.phase = s.phase := by
  obtain ⟨-, phase, -⟩ := h.engine
  exact phase.symm

theorem err : t.err = s.err := by
  obtain ⟨-, -, err, -⟩ := h.engine
  exact err.symm

theorem mlen : t.mlen = s.mlen := by
  obtain ⟨-, -, -, -, mlen, -⟩ := h.engine
  exact mlen.symm

theorem mptr : t.mptr = s.mptr := by
  obtain ⟨-, -, -, -, -, mptr, -⟩ := h.engine
  exact mptr.symm

theorem remaining : t.remaining = s.remaining := by rw [State.remaining, h.mlen, h.mptr, State.remaining]

theorem overrun : t.overrun = s.overrun := by rw [State.overrun, h.mlen, h.mptr, State.overrun]

/-- A read within the message is refused in both states or gives the same bytes. -/
theorem readMsg {a n : Nat} (hn : a + n ≤ s.mlen.toNat) : t.readMsg a n = s.readMsg a n := by
  have bytes : t.msgBytes a n = s.msgBytes a n :=
    List.map_congr_left fun i hi => (h.message (a + i) (by have := List.mem_range.1 hi; omega)).symm
  simp only [State.readMsg, State.msgBacked_congr h.platform.symm, bytes]

end State.SameInputs

/-! ### What two runs leave -/

/-- A byte that the same write reaches in both memories is the same in both; any other is as before in both. -/
theorem Memory.read?_writeRun_same (m n : Memory) (a : Nat) (bs : List Byte) (k : Nat) :
    (m.writeRun a bs).read? k = (n.writeRun a bs).read? k ∨
      ((m.writeRun a bs).read? k = m.read? k ∧ (n.writeRun a bs).read? k = n.read? k) := by
  simp only [Memory.read?_writeRun]
  split
  · exact .inl rfl
  · exact .inr ⟨rfl, rfl⟩

theorem Memory.read?_eraseRun_same (m n : Memory) (a len k : Nat) :
    (m.eraseRun a len).read? k = (n.eraseRun a len).read? k ∨
      ((m.eraseRun a len).read? k = m.read? k ∧ (n.eraseRun a len).read? k = n.read? k) := by
  simp only [Memory.read?_eraseRun]
  split
  · exact .inl rfl
  · exact .inr ⟨rfl, rfl⟩

/-- `r` from `s` and `q` from `t` both complete, with the same engine, each byte of OUT the same or untouched. -/
def SameOutcome (s t : State) (r q : Result) : Prop :=
  ∃ s' t' : State, r = .next s' ∧ q = .next t' ∧ s'.sameEngine t' ∧
    ∀ a, s'.out.read? a = t'.out.read? a ∨ (s'.out.read? a = s.out.read? a ∧ t'.out.read? a = t.out.read? a)

theorem SameOutcome.of_out_eq {s t s' t' : State} (he : s'.sameEngine t') (hs : s'.out = s.out) (ht : t'.out = t.out) :
    SameOutcome s t (.next s') (.next t') :=
  ⟨s', t', rfl, rfl, he, fun _ => .inr ⟨by rw [hs], by rw [ht]⟩⟩

namespace State.SameInputs

variable {s t : State} (h : s.SameInputs t)
include h

/-! ### The shared operations -/

theorem raise (c : Cause) : SameOutcome s t (raise c s) (raise c t) :=
  .of_out_eq (h.engine.setFault true c) rfl rfl

theorem accept {k l : Result} (hk : SameOutcome s t k l) : SameOutcome s t (accept s k) (accept t l) := by
  cases he : s.err with
  | true =>
    rw [accept_of_err he, accept_of_err (h.err.trans he)]
    exact .of_out_eq h.engine rfl rfl
  | false => rwa [accept_of_ok he, accept_of_ok (h.err.trans he)]

theorem finalize (A : Lanes) : SameOutcome s t (.next (s.finalize A)) (.next (t.finalize A)) := by
  rw [State.finalize, State.finalize, h.mlen]
  exact .of_out_eq (((h.engine.setLanes A).setMptr s.mlen).setPhase .final) rfl rfl

/-- The same output delivered from `u` and `v`, which agree and have the OUT of `s` and `t`. -/
theorem deliver {u v : State} (hu : u.sameEngine v) (hp : v.platform = u.platform) (hs : u.out = s.out)
    (ht : v.out = t.out) (r : List Byte × Lanes) (len : BitVec 16) :
    SameOutcome s t (deliver s u r len) (deliver t v r len) := by
  by_cases hb : ∀ j, j < r.1.length → u.outBacked j = true
  · rw [deliver_of_backed hb, deliver_of_backed fun j hj => (State.outBacked_congr hp j).trans (hb j hj), hs, ht]
    exact ⟨_, _, rfl, rfl, (((hu.setOut _ _).setLanes r.2).setOlen len).setPhase .done,
      Memory.read?_writeRun_same s.out t.out 0 r.1⟩
  · obtain ⟨j, hj, hb⟩ : ∃ j, j < r.1.length ∧ u.outBacked j = false := by simpa using hb
    rw [deliver_of_unbacked ⟨j, hj, hb⟩, deliver_of_unbacked ⟨j, hj, (State.outBacked_congr hp j).trans hb⟩]
    exact ⟨_, _, rfl, rfl, (h.engine.setOut _ _).setFault true .outAccess,
      Memory.read?_eraseRun_same s.out t.out 0 r.1.length⟩

/-! ### The commands -/

theorem mapLanes (f : Lanes → Lanes) : SameOutcome s t (mapLanes f s) (mapLanes f t) := by
  refine h.accept ?_
  rw [h.lanes]
  exact .of_out_eq (h.engine.setLanes (f s.lanes)) rfl rfl

theorem mapLanesIndexed (f : Lanes → Fin 24 → Lanes) (ir : BitVec 8) :
    SameOutcome s t (mapLanesIndexed f ir s) (mapLanesIndexed f ir t) := by
  refine h.accept ?_
  rw [h.lanes]
  cases roundIndex? ir with
  | none => exact h.raise .badOperand
  | some r => exact .of_out_eq (h.engine.setLanes (f s.lanes r)) rfl rfl

theorem execInit : SameOutcome s t (execInit s) (execInit t) :=
  h.accept (.of_out_eq ((((h.engine.setLanes Lanes.zero).setPhase .absorb).setMptr 0).setOlen 0) rfl rfl)

theorem execAbsb : SameOutcome s t (execAbsb s) (execAbsb t) := by
  refine h.accept ?_
  rw [h.phase, h.overrun, h.remaining, h.mptr, h.lanes]
  split
  · exact h.raise .badPhase
  · split
    · exact h.raise .badLength
    · next hl =>
      simp only [State.overrun, State.remaining, Config.rateBytes_eq, decide_eq_true_eq] at hl
      rw [h.readMsg (by simp only [Config.rateBytes_eq]; omega)]
      cases s.readMsg s.mptr.toNat Config.rateBytes with
      | none => exact h.raise .msgAccess
      | some d => exact .of_out_eq ((h.engine.setLanes _).setMptr _) rfl rfl

/-- With MPTR not above MLEN, the unabsorbed bytes lie within the message. -/
theorem readRemaining (hl : ¬ s.overrun = true) :
    t.readMsg s.mptr.toNat s.remaining = s.readMsg s.mptr.toNat s.remaining := by
  simp only [State.overrun, decide_eq_true_eq] at hl
  exact h.readMsg (by rw [State.remaining]; omega)

theorem execAbsf : SameOutcome s t (execAbsf s) (execAbsf t) := by
  refine h.accept ?_
  rw [h.phase, h.overrun, h.remaining, h.mptr, h.lanes]
  split
  · exact h.raise .badPhase
  · split
    · exact h.raise .badLength
    · next hl =>
      rw [h.readRemaining fun ho => hl (.inl ho)]
      cases s.readMsg s.mptr.toNat s.remaining with
      | none => exact h.raise .msgAccess
      | some d => exact h.finalize _

theorem execAbsorb : SameOutcome s t (execAbsorb s) (execAbsorb t) := by
  refine h.accept ?_
  rw [h.phase, h.overrun, h.remaining, h.mptr, h.lanes]
  split
  · exact h.raise .badPhase
  · split
    · exact h.raise .badLength
    · next hl =>
      rw [h.readRemaining hl]
      cases s.readMsg s.mptr.toNat s.remaining with
      | none => exact h.raise .msgAccess
      | some m => exact h.finalize _

theorem execSqueeze (len : BitVec 16) : SameOutcome s t (execSqueeze len s) (execSqueeze len t) := by
  refine h.accept ?_
  rw [h.phase, h.lanes]
  split
  · exact h.raise .badPhase
  · exact h.deliver h.engine h.platform.symm rfl rfl _ len

theorem execHash : SameOutcome s t (execHash s) (execHash t) := by
  refine h.accept ?_
  rw [h.mlen, h.readMsg (by omega)]
  cases s.readMsg 0 s.mlen.toNat with
  | none => exact h.raise .msgAccess
  | some m => exact h.deliver (h.engine.setMptr s.mlen) h.platform.symm rfl rfl _ 32

theorem exec (i : Instr) : SameOutcome s t (exec i s) (exec i t) := by
  cases i with
  | init => exact h.execInit
  | theta => exact h.mapLanes theta
  | rho => exact h.mapLanes rho
  | pi => exact h.mapLanes pi
  | rhopi => exact h.mapLanes rhopi
  | chi => exact h.mapLanes chi
  | iota ir => exact h.mapLanesIndexed iota ir
  | round ir => exact h.mapLanesIndexed keccakRound ir
  | permute => exact h.mapLanes permute
  | absb => exact h.execAbsb
  | absf => exact h.execAbsf
  | absorb => exact h.execAbsorb
  | squeeze len => exact h.execSqueeze len
  | hash => exact h.execHash

theorem issue (W : Command) : SameOutcome s t (issue W s) (issue W t) := by
  cases hd : decode W with
  | ok i =>
    rw [issue_of_ok hd, issue_of_ok hd]
    exact h.exec i
  | error e =>
    rw [issue_of_error hd, issue_of_error hd]
    exact h.accept (h.raise .illegalCmd)

end State.SameInputs

/-- Settles O35: the two runs take the same branch of the decoder, of every check and of every read of MSG. -/
theorem commandDependsOnNothingElse : Obligations.CommandDependsOnNothingElse :=
  fun W _ _ engine platform message => State.SameInputs.issue ⟨engine, platform, message⟩ W

/-- Settles O36: two runs from one state agree, so each of them completes. -/
theorem everyCommandCompletes : Obligations.EveryCommandCompletes := by
  refine ⟨fun i s => ?_, fun W s => ?_⟩
  · obtain ⟨t, -, ht, -⟩ := (State.SameInputs.refl s).exec i
    exact ⟨t, ht⟩
  · obtain ⟨t, -, ht, -⟩ := (State.SameInputs.refl s).issue W
    exact ⟨t, ht⟩

end Sys2Proof.Machine
end

section
/-! The host's access to MSG and OUT (20_memory.md R52, R53, R58). -/

namespace Sys2Proof.Machine

/-- What the engine reads of MSG after the host wrote one byte. -/
theorem State.msgByte_writeMsg (s : State) (a : Nat) (v : Byte) (b : Nat) :
    (s.setMsg (s.msg.writeRun a [v])).msgByte b = if b = a then v else s.msgByte b := by
  simp only [State.msgByte, State.setMsg_msg, Memory.read?_writeRun, List.length_singleton]
  by_cases hb : b = a
  · simp [hb]
  · rw [if_neg (by omega), if_neg hb]

theorem hostWriteMsg_of_backed {s : State} {a : Word} (h : s.msgBacked a.toNat = true) (v : Byte) :
    hostWriteMsg a v s = .next (s.setMsg (s.msg.writeRun a.toNat [v])) := if_pos h

theorem hostWriteMsg_of_unbacked {s : State} {a : Word} (h : s.msgBacked a.toNat = false) (v : Byte) :
    hostWriteMsg a v s = .refused .msgAddressNotBacked := if_neg (by simp [h])

/-- Settles O53: a backed write is a run of one byte; `readMsg` checks each address it reads. -/
theorem messageMemory : Obligations.MessageMemory := by
  refine ⟨fun s a v hb => ⟨_, hostWriteMsg_of_backed hb v, rfl, ?_, fun b hne => ?_⟩,
    fun s a v hb => hostWriteMsg_of_unbacked hb v, fun s a n => ⟨State.readMsg_eq_none, fun d hd => ?_⟩⟩
  · rw [State.msgByte_writeMsg, if_pos rfl]
  · rw [State.msgByte_writeMsg, if_neg hne]
  · exact (State.readMsg_eq_some.1 hd).2

theorem hostReadOut_of_some {s : State} {a : Nat} {v : Byte} (ha : a < 65535) (h : s.out.read? a = some v) :
    hostReadOut a s = .next (s.setHostData (v.setWidth 64)) := by
  simp [hostReadOut, Nat.not_le.2 ha, h]

theorem hostReadOut_of_none {s : State} {a : Nat} (ha : a < 65535) (h : s.out.read? a = none) :
    hostReadOut a s =
      .next ((s.setHostData ((Config.unspecifiedOutByte s.freeTick a).setWidth 64)).setFreeTick (s.freeTick + 1)) := by
  simp [hostReadOut, Nat.not_le.2 ha, h]

theorem hostReadOut_of_ge {a : Nat} (ha : 65535 ≤ a) (s : State) :
    hostReadOut a s = .fault .outAddressOutsideSpace := if_pos ha

/-- Settles O54: the three ways of HostOutRead, with `Config.unspecifiedOutByte` as the free value. -/
theorem outputMemory : Obligations.OutputMemory :=
  ⟨fun _ _ _ ha h => hostReadOut_of_some ha h, fun _ _ ha h => ⟨_, hostReadOut_of_none ha h⟩,
    fun s _ ha => hostReadOut_of_ge ha s⟩

end Sys2Proof.Machine
end

section
/-! The encoding (30_encoding.md R80 to R87): the three outcomes of decoding a word, the round trip, the opcode map as
match and mask, and HostIssue line by line. -/

namespace Sys2Proof

/-- One of the 14 opcodes of 30_encoding.md R84. -/
abbrev KnownOpcode (op : BitVec 8) : Prop :=
  op.toNat ∈ [0x01, 0x10, 0x11, 0x12, 0x13, 0x14, 0x15, 0x16, 0x17, 0x20, 0x21, 0x22, 0x30, 0x40]

/-- A field that is reserved for `op` is not 0 (30_encoding.md R83). -/
def ReservedNonzero (op a : BitVec 8) (b : BitVec 16) : Prop :=
  (op.toNat ≠ 0x15 ∧ op.toNat ≠ 0x16 ∧ a ≠ 0) ∨ (op.toNat ≠ 0x30 ∧ b ≠ 0)

theorem eq_commandWord_iff {W : Command} {op a : BitVec 8} {b : BitVec 16} :
    W = commandWord op a b ↔ opField W = op ∧ aField W = a ∧ bField W = b := by
  rw [← commandWord_inj, commandWord_fields]

theorem and_commandWord_eq_iff {W : Command} {mo ma op a : BitVec 8} {mb b : BitVec 16} :
    W &&& commandWord mo ma mb = commandWord op a b ↔
      opField W &&& mo = op ∧ aField W &&& ma = a ∧ bField W &&& mb = b := by
  rw [← commandWord_inj, ← commandWord_and, commandWord_fields]

/-- What decoding makes of a word: a command, whose word it is; no opcode of the map; a reserved field that is not 0. -/
inductive DecodeOutcome (W : Command) : Except DecodeReject Instr → Prop where
  | command (hk : KnownOpcode (opField W)) (hr : ¬ ReservedNonzero (opField W) (aField W) (bField W)) (i : Instr)
      (hi : W = encode i) : DecodeOutcome W (.ok i)
  | unknownOpcode (hk : ¬ KnownOpcode (opField W)) : DecodeOutcome W (.error .unknownOpcode)
  | reservedField (hk : KnownOpcode (opField W)) (hr : ReservedNonzero (opField W) (aField W) (bField W)) :
      DecodeOutcome W (.error .reservedField)

namespace DecodeOutcome

variable {W : Command} {op : BitVec 8}

theorem plain (hop : opField W = op) {i : Instr} (hi : encode i = commandWord op 0 0) (hk : KnownOpcode op)
    (hne : op.toNat ≠ 0x15 ∧ op.toNat ≠ 0x16 ∧ op.toNat ≠ 0x30) :
    DecodeOutcome W (decodePlain i (aField W) (bField W)) := by
  subst hop
  obtain ⟨h15, h16, h30⟩ := hne
  unfold decodePlain
  split
  · next h => exact .command hk (by simp [ReservedNonzero, h]) i (hi ▸ eq_commandWord_iff.2 ⟨rfl, h⟩)
  · next h =>
    refine .reservedField hk ?_
    by_cases ha : aField W = 0
    · exact .inr ⟨h30, fun hb => h ⟨ha, hb⟩⟩
    · exact .inl ⟨h15, h16, ha⟩

theorem indexed (hop : opField W = op) {i : BitVec 8 → Instr} (hi : ∀ a, encode (i a) = commandWord op a 0)
    (hk : KnownOpcode op) (hop' : op.toNat = 0x15 ∨ op.toNat = 0x16) :
    DecodeOutcome W (decodeIndexed i (aField W) (bField W)) := by
  subst hop
  unfold decodeIndexed
  split
  · next hb =>
    refine .command hk ?_ _ (hi _ ▸ eq_commandWord_iff.2 ⟨rfl, rfl, hb⟩)
    rintro (⟨h15, h16, -⟩ | ⟨-, h⟩)
    · exact hop'.elim h15 h16
    · exact h hb
  · next hb => exact .reservedField hk (.inr ⟨by omega, hb⟩)

theorem sized (hop : opField W = op) {i : BitVec 16 → Instr} (hi : ∀ b, encode (i b) = commandWord op 0 b)
    (hk : KnownOpcode op) (hop' : op.toNat = 0x30) : DecodeOutcome W (decodeSized i (aField W) (bField W)) := by
  subst hop
  unfold decodeSized
  split
  · next ha => exact .command hk (by simp [ReservedNonzero, ha, hop']) _ (hi _ ▸ eq_commandWord_iff.2 ⟨rfl, ha, rfl⟩)
  · next ha => exact .reservedField hk (.inl ⟨by omega, by omega, ha⟩)

end DecodeOutcome

/-- The rows of the opcode map, one branch each, and the words of no row. -/
theorem decode_outcome (W : Command) : DecodeOutcome W (decode W) := by
  unfold decode
  split
  case h_7 hop => exact .indexed hop (fun _ => rfl) (by decide) (by decide)
  case h_8 hop => exact .indexed hop (fun _ => rfl) (by decide) (by decide)
  case h_13 hop => exact .sized hop (fun _ => rfl) (by decide) (by decide)
  case h_15 =>
    refine .unknownOpcode fun hk => ?_
    simp only [KnownOpcode, List.mem_cons, List.not_mem_nil, or_false] at hk
    simp_all [← BitVec.toNat_inj]
  all_goals next hop => exact .plain hop rfl (by decide) (by decide)

theorem encode_of_decode {W : Command} {i : Instr} (h : decode W = .ok i) : W = encode i := by
  have ho := decode_outcome W
  rw [h] at ho
  cases ho with
  | command _ _ _ hi => exact hi

theorem decode_encode (i : Instr) : decode (encode i) = .ok i := by
  cases i <;> simp [encode, decode, decodePlain, decodeIndexed, decodeSized]

/-- The round trip both ways: each command has one word. -/
theorem decode_eq_ok_iff {W : Command} {i : Instr} : decode W = .ok i ↔ W = encode i :=
  ⟨encode_of_decode, fun h => h ▸ decode_encode i⟩

/-- A row whose mask is the whole word. -/
theorem decode_iff_full_mask {i : Instr} {m : Command} (hi : encode i = m) (W : Command) :
    decode W = .ok i ↔ W &&& 0xFFFFFFFF = m := by
  have hW : W &&& 0xFFFFFFFF = W := BitVec.and_allOnes
  rw [decode_eq_ok_iff, hi, hW]

/-- A row whose mask leaves out bits 23:16, the round index. -/
theorem decode_iff_index_mask {op : BitVec 8} {i : BitVec 8 → Instr} (hi : ∀ a, encode (i a) = commandWord op a 0)
    (W : Command) (a : BitVec 8) :
    decode W = .ok (i a) ↔ W &&& 0xFF00FFFF = commandWord op 0 0 ∧ a = aField W := by
  have hm : (0xFF00FFFF : Command) = commandWord (BitVec.allOnes 8) 0#8 (BitVec.allOnes 16) := by decide
  rw [decode_eq_ok_iff, hi, eq_commandWord_iff, hm, and_commandWord_eq_iff]
  simp only [BitVec.and_allOnes, BitVec.and_zero, eq_comm (a := a)]
  tauto

/-- A row whose mask leaves out bits 15:0, the output length. -/
theorem decode_iff_size_mask {op : BitVec 8} {i : BitVec 16 → Instr} (hi : ∀ b, encode (i b) = commandWord op 0 b)
    (W : Command) (b : BitVec 16) :
    decode W = .ok (i b) ↔ W &&& 0xFFFF0000 = commandWord op 0 0 ∧ b = bField W := by
  have hm : (0xFFFF0000 : Command) = commandWord (BitVec.allOnes 8) (BitVec.allOnes 8) 0#16 := by decide
  rw [decode_eq_ok_iff, hi, eq_commandWord_iff, hm, and_commandWord_eq_iff]
  simp only [BitVec.and_allOnes, BitVec.and_zero, eq_comm (a := b)]
  tauto

/-- Settles O4: a word is a command's word iff its fields are, and each row's mask keeps the fields that are fixed. -/
theorem opcodeMapMatchAndMask : Obligations.OpcodeMapMatchAndMask := by
  refine ⟨fun W => ?_, by decide⟩
  have plain {i m} (hi : encode i = m) := decode_iff_full_mask hi W
  have iota := decode_iff_index_mask (op := 0x15) (i := .iota) (fun _ => rfl) W
  have round := decode_iff_index_mask (op := 0x16) (i := .round) (fun _ => rfl) W
  have squeeze := decode_iff_size_mask (op := 0x30) (i := .squeeze) (fun _ => rfl) W
  exact ⟨plain rfl, plain rfl, plain rfl, plain rfl, plain rfl, plain rfl, iota, round, plain rfl, plain rfl, plain rfl,
    plain rfl, squeeze, plain rfl⟩

end Sys2Proof

namespace Sys2Proof.Machine

/-- Every meaning is behind `accept` (30_encoding.md R82, 60_exceptions.md R179). -/
theorem exec_of_err {s : State} (he : s.err = true) (i : Instr) : exec i s = .next s := by
  cases i <;> exact accept_of_err he _

theorem issue_of_err {s : State} (he : s.err = true) (W : Command) : issue W s = .next s := by
  cases hd : decode W with
  | ok i => rw [issue_of_ok hd, exec_of_err he]
  | error e => rw [issue_of_error hd, accept_of_err he]

theorem issue_of_rejected {W : Command} {e : DecodeReject} (hd : decode W = .error e) {s : State}
    (he : s.err = false) : issue W s = .next (s.setFault true .illegalCmd) := by
  rw [issue_of_error hd, accept_of_ok he, raise_eq]

/-- Settles O5: each line is one outcome of decoding, and the other two contradict its conditions. -/
theorem issueLineByLine : Obligations.IssueLineByLine := by
  intro W s op a b known reserved
  refine ⟨fun he => issue_of_err he W, ?_⟩
  have ho := decode_outcome W
  generalize hd : decode W = d at ho
  cases ho with
  | command hk hr i hi =>
    exact ⟨fun _ h => absurd hk h, fun _ _ h => absurd h hr, fun _ _ => ⟨i, hi, issue_of_ok hd s⟩⟩
  | unknownOpcode hk => exact ⟨fun he _ => issue_of_rejected hd he, fun _ h => absurd h hk, fun h => absurd h hk⟩
  | reservedField hk hr =>
    exact ⟨fun _ h => absurd hk h, fun he _ _ => issue_of_rejected hd he, fun _ h => absurd hr h⟩

end Sys2Proof.Machine
end

section
/-! The step mappings lane by lane in arithmetic modulo 5, the orbit of the lanes, and the round constants
(40_permutation.md R101 to R113). -/

namespace Sys2Proof

/-! ### Coordinates -/

@[simp] theorem coord_val (x : Fin 5) : coord x.val = x := Fin.ext (Nat.mod_eq_of_lt x.isLt)

@[simp] theorem coord_add (m n : Nat) : coord (m + n) = coord m + coord n := Fin.ext (Nat.add_mod m n 5)

@[simp] theorem coord_mul (m n : Nat) : coord (m * n) = coord m * coord n := Fin.ext (Nat.mul_mod m n 5)

@[simp] theorem coord_ofNat (n : Nat) [n.AtLeastTwo] : coord ofNat(n) = ofNat(n) := rfl

@[simp] theorem coord_one : coord 1 = 1 := rfl

theorem dst_eq (x y : Fin 5) : dst x y = (y, 2 * x + 3 * y) := by simp [dst]

theorem src_eq (X Y : Fin 5) : src X Y = (X + 3 * Y, X) := by simp [src]

/-! ### One lane -/

/-- Theta at one lane, the column parities written out (40_permutation.md R101). -/
theorem theta_xy_parities (A : Lanes) (x y : Fin 5) :
    let C := fun c : Fin 5 => A.xy c 0 ^^^ A.xy c 1 ^^^ A.xy c 2 ^^^ A.xy c 3 ^^^ A.xy c 4
    (theta A).xy x y = A.xy x y ^^^ (C (x + 4) ^^^ rol64 (C (x + 1)) 1) := by
  simp only [theta_xy, thetaC_getElem, Fin.eta, coord_add, coord_val, coord_ofNat, coord_one]

theorem pi_xy_moved (A : Lanes) (x y : Fin 5) : (pi A).xy y (2 * x + 3 * y) = A.xy x y := by
  simpa only [dst_eq] using pi_dst A x y

theorem rhopi_xy_moved (A : Lanes) (x y : Fin 5) :
    (rhopi A).xy y (2 * x + 3 * y) = rol64 (A.xy x y) (rot x y) := by
  simpa only [dst_eq] using rhopi_dst A x y

theorem rhopi_xy_zero (A : Lanes) : (rhopi A).xy 0 0 = A.xy 0 0 := rhopi_dst A 0 0

theorem chi_xy_row (A : Lanes) (x y : Fin 5) :
    (chi A).xy x y = A.xy x y ^^^ (~~~ A.xy (x + 1) y &&& A.xy (x + 2) y) := by
  simp [chi_xy]

theorem iota_iota (A : Lanes) (ir : Fin 24) : iota (iota A ir) ir = A := by
  apply Lanes.ext_xy
  intro x y
  by_cases h : x = 0 ∧ y = 0
  · simp [iota_xy, h]
  · simp [iota_xy, h]

/-! ### Pi again and again -/

theorem pi_iterate_xy (n : Nat) (A : Lanes) (p : Fin 5 × Fin 5) :
    (pi^[n] A).xy.uncurry p = A.xy.uncurry (src.uncurry^[n] p) := by
  induction n generalizing A with
  | zero => rfl
  | succ n ih =>
    rw [Function.iterate_succ_apply, ih, Function.iterate_succ_apply']
    exact pi_xy A _ _

theorem src_iterate_24 : ∀ p, src.uncurry^[24] p = p := by decide

theorem pi_iterate_24 (A : Lanes) : pi^[24] A = A :=
  Lanes.ext_xy fun x y => (pi_iterate_xy 24 A (x, y)).trans (congrArg A.xy.uncurry (src_iterate_24 (x, y)))

/-! ### The orbit -/

theorem orbit_succ (t : Nat) : orbit (t + 1) = ((orbit t).2, 2 * (orbit t).1 + 3 * (orbit t).2) := dst_eq _ _

theorem orbit_24 : orbit 24 = orbit 0 := by decide

/-- The orbit visits every coordinate but (0, 0) (40_permutation.md R105). -/
theorem exists_orbit_eq : ∀ p : Fin 5 × Fin 5, p ≠ (0, 0) → ∃ t, t < 24 ∧ orbit t = p := by decide

theorem exists_orbit_succ_eq {p : Fin 5 × Fin 5} (hp : p ≠ (0, 0)) : ∃ t, t < 24 ∧ orbit (t + 1) = p := by
  obtain ⟨_ | t, ht, rfl⟩ := exists_orbit_eq p hp
  · exact ⟨23, by decide, orbit_24⟩
  · exact ⟨t, by omega, rfl⟩

theorem two_mul_orbitOffset (t : Nat) : 2 * orbitOffset t = (t + 1) * (t + 2) := by
  induction t with
  | zero => rfl
  | succ t ih => rw [orbitOffset, Nat.mul_add, ih]; ring

theorem orbitOffset_eq (t : Nat) : orbitOffset t = (t + 1) * (t + 2) / 2 := by
  rw [← two_mul_orbitOffset, Nat.mul_div_cancel_left _ (by decide)]

theorem rot_orbit : ∀ t, t < 24 → rot (orbit t).1 (orbit t).2 = orbitOffset t % 64 := by decide

theorem rot_injective : ∀ x y x' y' : Fin 5, rot x y = rot x' y' → x = x' ∧ y = y' := by decide

/-! ### The running formulation -/

/-- The index of the lane the running formulation writes at step `t`. -/
def orbitPlace (t : Nat) : Nat := (orbit (t + 1)).1.val + 5 * (orbit (t + 1)).2.val

theorem orbitPlace_lt (t : Nat) : orbitPlace t < 25 := by
  unfold orbitPlace; omega

theorem orbitPlace_ne_zero : ∀ t ∈ List.range 24, orbitPlace t ≠ 0 := by decide

theorem orbitPlaces_nodup : ((List.range 24).map orbitPlace).Nodup := by decide

theorem rhopiRunning_xy_zero (A : Lanes) : (rhopiRunning A).xy 0 0 = A.xy 0 0 := by
  rw [Lanes.xy_eq_reg, Lanes.xy_eq_reg]
  exact Lanes.reg_foldl_setReg_ne (List.range 24) orbitPlace _ A 0 (fun t _ => orbitPlace_lt t) orbitPlace_ne_zero

theorem rhopiRunning_xy_orbit (A : Lanes) {t : Nat} (ht : t < 24) :
    (rhopiRunning A).xy (orbit (t + 1)).1 (orbit (t + 1)).2 =
      rol64 (A.xy (orbit t).1 (orbit t).2) (orbitOffset t % 64) := by
  rw [Lanes.xy_eq_reg]
  exact Lanes.reg_foldl_setReg (List.range 24) orbitPlace _ A (fun t _ => orbitPlace_lt t) orbitPlaces_nodup t
    (List.mem_range.2 ht)

/-- Every lane but (0, 0) is written once, at the step at which the orbit arrives there (40_permutation.md R107). -/
theorem rhopiRunning_eq_rhopi (A : Lanes) : rhopiRunning A = rhopi A := by
  apply Lanes.ext_xy
  intro X Y
  by_cases h : (X, Y) = (0, 0)
  · cases h
    rw [rhopiRunning_xy_zero, rhopi_xy_zero]
  · obtain ⟨t, ht, horbit⟩ := exists_orbit_succ_eq h
    have hrun := rhopiRunning_xy_orbit A ht
    have htable : (rhopi A).xy (orbit (t + 1)).1 (orbit (t + 1)).2 = _ := rhopi_dst A (orbit t).1 (orbit t).2
    rw [rot_orbit t ht, ← hrun, horbit] at htable
    exact htable.symm

/-! ### The round constants -/

theorem rc_eq_rcGenerated : ∀ i : Fin 24, rc i = rcGenerated i.val := by decide

theorem getLsbD_one_shiftLeft {n b : Nat} (h : ((1 <<< n : Nat) : Word).getLsbD b = true) : n = b := by
  rw [BitVec.natCast_eq_ofNat, BitVec.getLsbD_ofNat, Nat.one_shiftLeft, Nat.testBit_two_pow, Bool.and_eq_true] at h
  exact of_decide_eq_true h.2

/-- Setting single bits one after the other adds no ones but at the places set. -/
theorem getLsbD_foldl_setBit (p : Nat → Bool) (place : Nat → Nat) {js : List Nat} {c : Word} {b : Nat}
    (h : (js.foldl (fun (c : Word) j => if p j then c ||| (1 <<< place j : Nat) else c) c).getLsbD b = true) :
    c.getLsbD b = true ∨ ∃ j ∈ js, place j = b := by
  induction js generalizing c with
  | nil => exact .inl h
  | cons j js ih =>
    rw [List.foldl_cons] at h
    rcases ih h with hc | ⟨k, hk, hb⟩
    · split at hc
      · rw [BitVec.getLsbD_or, Bool.or_eq_true] at hc
        exact hc.imp_right fun hj => ⟨j, List.mem_cons_self, getLsbD_one_shiftLeft hj⟩
      · exact .inl hc
    · exact .inr ⟨k, List.mem_cons_of_mem _ hk, hb⟩

/-- The generator sets bits at `2^j - 1` for `j < 7` only (40_permutation.md R109). -/
theorem rcGenerated_bit_mem {i b : Nat} (h : (rcGenerated i).getLsbD b = true) : b ∈ [0, 1, 3, 7, 15, 31, 63] := by
  have hplaces : ∀ j ∈ List.range 7, 2 ^ j - 1 ∈ [0, 1, 3, 7, 15, 31, 63] := by decide
  rcases getLsbD_foldl_setBit (fun j => (lfsrValue (7 * i + j + 1)).getLsbD 1) (fun j => 2 ^ j - 1) h with h | ⟨j, hj, rfl⟩
  · simp at h
  · exact hplaces j hj

end Sys2Proof
end

section
/-! The datapath commands (40_permutation.md R100 to R115): each one, and any sequence of them, as a function of the
lanes. -/

namespace Sys2Proof.Machine

/-- The function of the lanes a datapath command computes, when its operand is legal; an illegal operand and every other
command are left as the identity here. -/
def laneMap : Instr → Lanes → Lanes
  | .theta => theta
  | .rho => rho
  | .pi => pi
  | .rhopi => rhopi
  | .chi => chi
  | .iota ir => fun A => (roundIndex? ir).elim A (iota A)
  | .round ir => fun A => (roundIndex? ir).elim A (keccakRound A)
  | .permute => permute
  | _ => id

theorem mapLanesIndexed_of_lt (f : Lanes → Fin 24 → Lanes) {ir : BitVec 8} (h : ir.toNat < 24) {s : State}
    (he : s.err = false) : mapLanesIndexed f ir s = .next (s.setLanes (f s.lanes ⟨ir.toNat, h⟩)) := by
  simp only [mapLanesIndexed, accept_of_ok he, roundIndex?_of_lt h]

theorem mapLanesIndexed_of_ge (f : Lanes → Fin 24 → Lanes) {ir : BitVec 8} (h : 24 ≤ ir.toNat) {s : State}
    (he : s.err = false) : mapLanesIndexed f ir s = .next (s.setFault true .badOperand) := by
  simp only [mapLanesIndexed, accept_of_ok he, roundIndex?_of_ge h, raise_eq]

theorem laneMap_iota {ir : BitVec 8} (h : ir.toNat < 24) (A : Lanes) :
    laneMap (.iota ir) A = iota A ⟨ir.toNat, h⟩ := by
  simp [laneMap, roundIndex?_of_lt h]

theorem laneMap_round {ir : BitVec 8} (h : ir.toNat < 24) (A : Lanes) :
    laneMap (.round ir) A = keccakRound A ⟨ir.toNat, h⟩ := by
  simp [laneMap, roundIndex?_of_lt h]

/-- A datapath command with a legal operand completes and changes lanes only (40_permutation.md R100). -/
theorem exec_datapath {i : Instr} (hi : i.datapath = true) (hw : i.wf = true) {s : State} (he : s.err = false) :
    exec i s = .next (s.setLanes (laneMap i s.lanes)) := by
  cases i
  case iota ir =>
    have h : ir.toNat < 24 := of_decide_eq_true hw
    rw [laneMap_iota h]; exact mapLanesIndexed_of_lt iota h he
  case round ir =>
    have h : ir.toNat < 24 := of_decide_eq_true hw
    rw [laneMap_round h]; exact mapLanesIndexed_of_lt keccakRound h he
  case theta | rho | pi | rhopi | chi | permute => exact accept_of_ok he _
  all_goals cases hi

/-- An illegal operand is a round index of 24 or more (30_encoding.md R81). -/
theorem exec_of_not_wf {i : Instr} (hw : i.wf = false) {s : State} (he : s.err = false) :
    exec i s = .next (s.setFault true .badOperand) := by
  cases i
  case iota ir => exact mapLanesIndexed_of_ge iota (Nat.le_of_not_lt (of_decide_eq_false hw)) he
  case round ir => exact mapLanesIndexed_of_ge keccakRound (Nat.le_of_not_lt (of_decide_eq_false hw)) he
  all_goals cases hw

/-- Datapath commands in sequence compose as functions of the lanes. -/
theorem runCommands_datapath {is : List Instr} (h : ∀ i ∈ is, i.datapath = true ∧ i.wf = true) {s : State}
    (he : s.err = false) :
    runCommands is s = .next (s.setLanes (is.foldl (fun A i => laneMap i A) s.lanes)) := by
  induction is generalizing s with
  | nil => rfl
  | cons i is ih =>
    obtain ⟨hi, hw⟩ := h i List.mem_cons_self
    rw [runCommands_cons, exec_datapath hi hw he, andThen_next,
      ih (fun j hj => h j (List.mem_cons_of_mem _ hj)) (by simpa using he)]
    rfl

theorem foldl_laneMap_rounds (A : Lanes) :
    ((List.range 24).map fun ir => Instr.round (BitVec.ofNat 8 ir)).foldl (fun A i => laneMap i A) A = permute A := by
  have hround (A : Lanes) (ir : Fin 24) : laneMap (.round (BitVec.ofNat 8 ir.val)) A = keccakRound A ir := by
    have hnat : (BitVec.ofNat 8 ir.val).toNat = ir.val := Nat.mod_eq_of_lt (by omega)
    rw [laneMap_round (by omega)]
    simp only [hnat, Fin.eta]
  rw [permute, ← List.map_coe_finRange_eq_range, List.map_map, List.foldl_map]
  simp only [Function.comp_apply, hround]

/-- Settles O11: each lane ends where 24 steps of `src` lead back to, which is where it was. -/
theorem piHasOrder24 : Obligations.PiHasOrder24 := by
  intro s he
  have hlanes : (List.replicate 24 Instr.pi).foldl (fun A i => laneMap i A) s.lanes = pi^[24] s.lanes := rfl
  rw [runCommands_datapath (by simp [Instr.datapath, Instr.wf]) he, hlanes, pi_iterate_24]
  rfl

/-- Settles O13: the running formulation by the table's orbit, the offsets by induction on the step. -/
theorem runningRhopiEqualsTables : Obligations.RunningRhopiEqualsTables :=
  ⟨rhopiRunning_eq_rhopi, fun t _ => orbitOffset_eq t, orbit_succ⟩

/-- Settles O18: both are the fold of `keccakRound` over the indices 0 to 23. -/
theorem permuteIsTwentyFourRounds : Obligations.PermuteIsTwentyFourRounds := by
  intro s he
  have hexec : exec .permute s = .next (s.setLanes (permute s.lanes)) := exec_datapath rfl rfl he
  refine ⟨hexec, ?_⟩
  rw [hexec, runCommands_datapath (by decide) he, foldl_laneMap_rounds]

/-- Settles O8: `theta_xy_parities`, with the rotation by 1 from `getLsbD_rol64`. -/
theorem thetaLanes : Obligations.ThetaLanes :=
  ⟨fun v _ hb => getLsbD_rol64 v (by decide) hb,
    fun s he => ⟨theta s.lanes, exec_datapath rfl rfl he, theta_xy_parities s.lanes⟩⟩

/-- Settles O9: `rho_xy`; the facts about the table are checked entry by entry. -/
theorem rhoLanes : Obligations.RhoLanes :=
  ⟨fun v _ _ hn hb => getLsbD_rol64 v hn hb, rol64_zero,
    fun s he => ⟨rho s.lanes, exec_datapath rfl rfl he, rho_xy s.lanes⟩, by decide, rfl,
    fun t ht => orbitOffset_eq t ▸ rot_orbit t ht, rot_injective⟩

/-- Settles O10: `pi_xy_moved`; the two maps and the orbit are checked coordinate by coordinate. -/
theorem piLanes : Obligations.PiLanes :=
  ⟨fun s he => ⟨pi s.lanes, exec_datapath rfl rfl he, pi_xy_moved s.lanes⟩,
    fun x y => ⟨dst_eq x y, by revert x y; decide⟩, fun X Y => ⟨src_eq X Y, dst_src X Y, by revert X Y; decide⟩,
    fun x y => exists_orbit_eq (x, y), orbit_24⟩

/-- Settles O12: `rhopi_xy_moved`; RHO ; PI composes `pi` after `rho`, which is `rhopi`. -/
theorem rhopiLanes : Obligations.RhopiLanes := by
  intro s he
  have hexec : exec .rhopi s = .next (s.setLanes (rhopi s.lanes)) := exec_datapath rfl rfl he
  refine ⟨rhopi s.lanes, hexec, rhopi_xy_moved s.lanes, rhopi_xy_zero s.lanes, ?_⟩
  rw [hexec, runCommands_datapath (by decide) he]
  rfl

/-- Settles O14: `chi_xy_row`. -/
theorem chiLanes : Obligations.ChiLanes :=
  fun s he => ⟨chi s.lanes, exec_datapath rfl rfl he, chi_xy_row s.lanes⟩

/-- Settles O15: `iota_xy`; the second XOR with the same constant cancels the first. -/
theorem iotaLanes : Obligations.IotaLanes := by
  intro ir h s he
  have hw : (Instr.iota ir).wf = true := decide_eq_true h
  refine ⟨⟨iota s.lanes ⟨ir.toNat, h⟩, ?_, ?_, fun x y hxy => ?_⟩, ?_⟩
  · rw [exec_datapath rfl hw he, laneMap_iota h]
  · rw [iota_xy, if_pos ⟨rfl, rfl⟩]
  · rw [iota_xy, if_neg (by simpa using hxy)]
  · rw [runCommands_datapath (by simp [Instr.datapath, hw]) he]
    simp only [List.foldl_cons, List.foldl_nil, laneMap_iota h, iota_iota]
    rfl

/-- Settles O16: the table line by line; a constant's bits are those the generator sets. -/
theorem roundConstantsAreGenerated : Obligations.RoundConstantsAreGenerated := by
  refine ⟨fun k h => ?_, fun i => ⟨rc_eq_rcGenerated i, fun b _ hb => rcGenerated_bit_mem (rc_eq_rcGenerated i ▸ hb)⟩⟩
  revert k; decide

/-- Settles O17: the four commands compose to `keccakRound`. -/
theorem roundIsItsFourSteps : Obligations.RoundIsItsFourSteps := by
  intro ir h s he
  have hw : (Instr.round ir).wf = true := decide_eq_true h
  have hexec : exec (.round ir) s = .next (s.setLanes (keccakRound s.lanes ⟨ir.toNat, h⟩)) := by
    rw [exec_datapath rfl hw he, laneMap_round h]
  refine ⟨hexec, ?_⟩
  rw [hexec, runCommands_datapath (by simp [Instr.datapath, Instr.wf, h]) he]
  simp only [List.foldl_cons, List.foldl_nil, laneMap_iota h]
  rfl

/-- Settles O19: `exec_of_err`, `exec_datapath` and `exec_of_not_wf` are the three clauses. -/
theorem datapathCommandsChangeLanesOnly : Obligations.DatapathCommandsChangeLanesOnly :=
  fun i _ hi => ⟨fun he => exec_of_err he i, fun he hw => ⟨_, exec_datapath hi hw he⟩, fun he hw => exec_of_not_wf hw he⟩

end Sys2Proof.Machine
end

section
/-! The sponge functions in closed form: XOR-in by bytes and by lanes, padding, every byte and the lanes of a squeeze
(41_sponge.md R132, R134, R138). -/

namespace Sys2Proof

/-! ### XOR-in -/

/-- Every byte of the state after XOR-in, a byte beyond the end of `d` taken as 0. -/
theorem byte_xorin (A : Lanes) {d : List Byte} (hd : d.length ≤ 136) (k : Nat) :
    (xorin A d).byte k = A.byte k ^^^ d.getD k 0 := by
  rw [xorin, byte_xorinFrom d 0 A (by omega), if_pos (Nat.zero_le k), Nat.sub_zero, List.getD_eq_getElem?_getD]

/-- What XOR-in XORs into a byte. -/
theorem byte_xorin_xor (A : Lanes) {d : List Byte} (hd : d.length ≤ 136) (k : Nat) :
    (xorin A d).byte k ^^^ A.byte k = d.getD k 0 := by
  rw [byte_xorin A hd, BitVec.xor_comm, ← BitVec.xor_assoc, BitVec.xor_self, BitVec.zero_xor]

/-- A lane is the little-endian sum of its eight bytes (10_state.md R23). -/
theorem eq_ofNat_sum_bytes (v : Word) :
    v = BitVec.ofNat 64 ((List.range 8).map fun k => (v.extractLsb' (8 * k) 8).toNat * 2 ^ (8 * k)).sum := by
  rw [sum_extractLsb'_bytes, Nat.mod_eq_of_lt v.isLt, BitVec.ofNat_toNat, BitVec.setWidth_eq]

/-- What XOR-in XORs into a lane has eight bytes of `d` as its bytes. -/
theorem extractLsb'_reg_xorin (A : Lanes) {d : List Byte} (hd : d.length ≤ 136) (i : Nat) {k : Nat} (hk : k < 8) :
    ((xorin A d).reg i ^^^ A.reg i).extractLsb' (8 * k) 8 = d.getD (8 * i + k) 0 := by
  rw [BitVec.extractLsb'_xor, ← Lanes.byte_mul_add _ i hk, ← Lanes.byte_mul_add _ i hk, byte_xorin_xor A hd]

theorem reg_xorin (A : Lanes) {d : List Byte} (hd : d.length ≤ 136) (i : Nat) :
    (xorin A d).reg i = A.reg i ^^^
      BitVec.ofNat 64 ((List.range 8).map fun k => (d.getD (8 * i + k) 0).toNat * 2 ^ (8 * k)).sum := by
  have hbytes : ((List.range 8).map fun k => (d.getD (8 * i + k) 0).toNat * 2 ^ (8 * k)) =
      (List.range 8).map fun k => (((xorin A d).reg i ^^^ A.reg i).extractLsb' (8 * k) 8).toNat * 2 ^ (8 * k) :=
    List.map_congr_left fun k hk => by rw [extractLsb'_reg_xorin A hd i (List.mem_range.1 hk)]
  rw [hbytes, ← eq_ofNat_sum_bytes, BitVec.xor_comm, BitVec.xor_assoc, BitVec.xor_self, BitVec.xor_zero]

/-- Settles O21: the bytes by `byte_xorin`, the lanes by `reg_xorin`, which assembles the same bytes. -/
theorem xorinByBytesAndByLanes : Obligations.XorinByBytesAndByLanes := by
  intro A d hd
  refine ⟨fun k hk => ?_, fun k hk _ => ?_, fun i _ => reg_xorin A hd i⟩
  · rw [byte_xorin_xor A hd, List.getD_eq_getElem d 0 hk, List.getElem?_eq_getElem hk]
  · rw [byte_xorin A hd, List.getD_eq_default _ _ hk]
    exact BitVec.xor_zero

/-! ### Padding -/

/-- Two XORs into one byte are one. -/
theorem Lanes.xorByte_xorByte (A : Lanes) {k : Nat} (hk : k < 200) (u v : Byte) :
    (A.xorByte k u).xorByte k v = A.xorByte k (u ^^^ v) := by
  refine Lanes.ext_byte fun n _ => ?_
  simp only [Lanes.byte_xorByte _ hk]
  by_cases hn : n = k
  · simp only [hn, if_true, BitVec.xor_assoc]
  · simp only [hn, if_false]

/-- Branch b of R134 is taken: the suffix is in the last byte and its top bit is set. -/
theorem padWith_last {suffix : Byte} (h : suffix.getLsbD 7 = true) (A : Lanes) :
    padWith suffix A 135 = permute ((permute (A.xorByte 135 suffix)).xorByte 135 0x80)  :=
  congrArg (fun B : Lanes => permute (B.xorByte 135 0x80)) (if_pos ⟨rfl, h⟩)

/-- Branch b of R134 is not taken. -/
theorem padWith_of_not_last {suffix : Byte} {q : Nat} (h : q ≠ 135 ∨ suffix.getLsbD 7 = false) (A : Lanes) :
    padWith suffix A q = permute ((A.xorByte q suffix).xorByte 135 0x80) := by
  have hb : ¬ (q = 135 ∧ suffix.getLsbD 7 = true) := by
    rintro ⟨hq, hs⟩
    rcases h with h | h
    · exact h hq
    · exact Bool.false_ne_true (h.symm.trans hs)
  exact congrArg (fun B : Lanes => permute (B.xorByte 135 0x80)) (if_neg hb)

/-- Settles O24: the two branches of step b, the hardwired suffix by `pad_eq`; at `q = 135` its two XORs meet in one
byte. -/
theorem paddingOfAnySuffix : Obligations.PaddingOfAnySuffix := by
  refine ⟨fun suffix A q _ => ⟨?_, fun h => padWith_of_not_last h A⟩, fun A q _ => ⟨rfl, pad_eq A q⟩, fun A => ?_⟩
  · rintro rfl hs
    exact padWith_last hs A
  · rw [pad_eq, Lanes.xorByte_xorByte A (by decide)]
    rfl

/-! ### Squeezing -/

theorem getElem?_squeezeLoop (fuel : Nat) (A : Lanes) (rem : Nat) (h : rem ≤ fuel * 136) (j : Nat) (hj : j < rem) :
    (squeezeLoop fuel A rem).1[j]? = some (((permute^[j / 136]) A).byte (j % 136)) := by
  induction fuel generalizing A rem j with
  | zero => omega
  | succ fuel ih =>
    by_cases hr : rem ≤ 136
    · have hj' : j < 136 := by omega
      rw [squeezeLoop_last fuel A rem hr, Lanes.getElem?_front, if_pos hj, Nat.div_eq_of_lt hj', Nat.mod_eq_of_lt hj']
      rfl
    · rw [squeezeLoop_block fuel A rem (by omega)]
      by_cases hj' : j < 136
      · rw [List.getElem?_append_left (by simpa using hj'), Lanes.getElem?_front, if_pos hj', Nat.div_eq_of_lt hj',
          Nat.mod_eq_of_lt hj']
        rfl
      · rw [List.getElem?_append_right (by simpa using hj'), Lanes.length_front, ih _ _ (by omega) _ (by omega),
          show j / 136 = (j - 136) / 136 + 1 by omega, show j % 136 = (j - 136) % 136 by omega,
          Function.iterate_succ_apply]

/-- The loop permutes once between blocks, and not after the last one. -/
theorem squeezeLoop_lanes (fuel : Nat) (A : Lanes) (rem : Nat) (h : rem ≤ fuel * 136) :
    (squeezeLoop fuel A rem).2 = (permute^[(rem - 1) / 136]) A := by
  induction fuel generalizing A rem with
  | zero =>
    obtain rfl : rem = 0 := by omega
    rfl
  | succ fuel ih =>
    by_cases hr : rem ≤ 136
    · rw [squeezeLoop_last fuel A rem hr, Nat.div_eq_of_lt (by omega)]
      rfl
    · rw [squeezeLoop_block fuel A rem (by omega), ih _ _ (by omega),
        show (rem - 1) / 136 = (rem - 136 - 1) / 136 + 1 by omega, Function.iterate_succ_apply]

/-- `L div 136 + 1` blocks hold `L` bytes. -/
theorem le_squeezeFuel (len : Nat) : len ≤ (len / 136 + 1) * 136 := by omega

theorem getElem?_squeeze (A : Lanes) {len j : Nat} (hj : j < len) :
    (squeeze A len).1[j]? = some (((permute^[j / 136]) A).byte (j % 136)) :=
  getElem?_squeezeLoop _ A len (le_squeezeFuel len) j hj

theorem squeeze_lanes (A : Lanes) (len : Nat) : (squeeze A len).2 = (permute^[(len - 1) / 136]) A :=
  squeezeLoop_lanes _ A len (le_squeezeFuel len)

/-- A digest is the front of the state; no permutation is needed for it. -/
theorem squeeze_32 (A : Lanes) : squeeze A 32 = (A.front 32, A) := squeezeLoop_last _ A 32 (by decide)

/-- Settles O28: `getElem?_squeeze` and `squeeze_lanes`, each by induction on the blocks. -/
theorem squeezeByteByByte : Obligations.SqueezeByteByByte := by
  refine fun A len => ⟨length_squeeze A len, fun j hj => getElem?_squeeze A hj, ?_, fun _ => squeeze_lanes A len⟩
  rintro rfl
  exact squeeze_lanes A 0

end Sys2Proof
end

section
/-! The sponge commands where they do not fault (41_sponge.md R133 to R142): the next state of each, and of their
sequences. -/

namespace Sys2Proof.Machine

/-! ### One command -/

/-- The next state of an ABSB that does not fault (41_sponge.md R133). -/
def State.absorbBlock (s : State) : State :=
  (s.setLanes (permute (xorin s.lanes (s.msgBytes s.mptr.toNat 136)))).setMptr (s.mptr + 136)

/-- The next state of an ABSORB that does not fault (41_sponge.md R136). -/
def State.absorbAll (s : State) : State :=
  s.finalize (absorbFrom s.lanes (s.msgBytes s.mptr.toNat s.remaining))

theorem exec_init {s : State} (he : s.err = false) :
    exec .init s = .next ((((s.setLanes Lanes.zero).setPhase .absorb).setMptr 0).setOlen 0) :=
  accept_of_ok he _

theorem exec_absb_of_backed {s : State} (he : s.err = false) (hp : s.phase = .absorb)
    (hl : s.mptr.toNat + 136 ≤ s.mlen.toNat) (hb : ∀ i, i < 136 → s.msgBacked (s.mptr.toNat + i) = true) :
    exec .absb s = .next s.absorbBlock := by
  have hlen : ¬ (s.overrun = true ∨ s.remaining < 136) := by
    simp only [State.overrun, State.remaining, decide_eq_true_eq]; omega
  simp only [exec, execAbsb, Config.rateBytes_eq, accept_of_ok he, hp, ne_eq, not_true, if_false, hlen,
    State.readMsg_of_backed hb, State.absorbBlock]

/-- ABSORB does not fault in this state (41_sponge.md R136). -/
structure State.AbsorbReady (s : State) : Prop where
  err : s.err = false
  phase : s.phase = .absorb
  le : s.mptr.toNat ≤ s.mlen.toNat
  backed : ∀ a, s.mptr.toNat ≤ a → a < s.mlen.toNat → s.msgBacked a = true

namespace State.AbsorbReady

variable {s : State} (h : s.AbsorbReady)
include h

theorem not_overrun : s.overrun = false := decide_eq_false (Nat.not_lt.2 h.le)

theorem readMsg : s.readMsg s.mptr.toNat s.remaining = some (s.msgBytes s.mptr.toNat s.remaining) :=
  State.readMsg_of_backed fun i hi => h.backed _ (by omega) (by rw [State.remaining] at hi; omega)

theorem exec_absorb : exec .absorb s = .next s.absorbAll := by
  simp only [exec, execAbsorb, accept_of_ok h.err, h.phase, ne_eq, not_true, if_false, h.not_overrun,
    Bool.false_eq_true, h.readMsg, State.absorbAll]

theorem exec_absf (hr : s.remaining < 136) :
    exec .absf s = .next (s.finalize (pad (xorin s.lanes (s.msgBytes s.mptr.toNat s.remaining)) s.remaining)) := by
  simp only [exec, execAbsf, Config.rateBytes_eq, accept_of_ok h.err, h.phase, ne_eq, not_true, if_false,
    h.not_overrun, Bool.false_eq_true, false_or, ge_iff_le, Nat.not_le.2 hr, h.readMsg, State.length_msgBytes]

end State.AbsorbReady

theorem exec_squeeze_of_backed {len : BitVec 16} {s : State} (he : s.err = false) (hp : s.phase = .final)
    (hb : ∀ j, j < len.toNat → s.outBacked j = true) :
    exec (.squeeze len) s =
      .next ((((s.setOut (s.out.writeRun 0 (squeeze s.lanes len.toNat).1)).setLanes
        (squeeze s.lanes len.toNat).2).setOlen len).setPhase .done) := by
  simp only [exec, execSqueeze, accept_of_ok he, hp, ne_eq, not_true, if_false]
  exact deliver_of_backed (by simpa using hb)

theorem exec_hash_of_backed {s : State} (he : s.err = false) (hb : ∀ a, a < s.mlen.toNat → s.msgBacked a = true)
    (ho : ∀ j, j < 32 → s.outBacked j = true) :
    exec .hash s =
      .next (((((s.setMptr s.mlen).setOut (s.out.writeRun 0 ((absorb (s.msgBytes 0 s.mlen.toNat)).front 32))).setLanes
        (absorb (s.msgBytes 0 s.mlen.toNat))).setOlen 32).setPhase .done) := by
  have hread : s.readMsg 0 s.mlen.toNat = some (s.msgBytes 0 s.mlen.toNat) :=
    State.readMsg_of_backed (by simpa using hb)
  simp only [exec, execHash, accept_of_ok he, hread, Config.digestBytes_eq, squeeze_32]
  exact deliver_of_backed (by simpa using ho)

/-- Settles O22: `exec_absb_of_backed`; the sum does not wrap because MLEN bounds it. -/
theorem absbAbsorbsOneBlock : Obligations.AbsbAbsorbsOneBlock :=
  fun _ he hp hl hb => ⟨exec_absb_of_backed he hp hl hb, toNat_mptr_add_block hl⟩

/-- Settles O23: the `q` bytes are those that remain. -/
theorem absfAbsorbsTheRemainder : Obligations.AbsfAbsorbsTheRemainder := by
  intro s q he hp hq hlt hb
  have ready : s.AbsorbReady := ⟨he, hp, by omega, fun a ha hlt => by
    obtain ⟨i, rfl⟩ := Nat.exists_eq_add_of_le ha
    exact hb i (by omega)⟩
  obtain rfl : s.remaining = q := by rw [State.remaining]; omega
  exact ready.exec_absf hlt

/-- Settles O25: `State.AbsorbReady` collects the premises. -/
theorem absorbFinalizes : Obligations.AbsorbFinalizes :=
  fun _ he hp hl hb => State.AbsorbReady.exec_absorb ⟨he, hp, hl, hb⟩

theorem Memory.read?_writeRun_front (m : Memory) {bs : List Byte} {k : Nat} (hk : k < bs.length) :
    (m.writeRun 0 bs).read? k = bs[k]? := by
  simp [Memory.read?_writeRun, hk]

theorem Memory.read?_writeRun_beyond (m : Memory) {bs : List Byte} {k : Nat} (hk : bs.length ≤ k) :
    (m.writeRun 0 bs).read? k = m.read? k := by
  simp [Memory.read?_writeRun, Nat.not_lt.2 hk]

/-- Settles O29: `exec_squeeze_of_backed`; OUT reads as the squeezed bytes below `L` and as before from there on. -/
theorem squeezeWritesItsOutput : Obligations.SqueezeWritesItsOutput := by
  intro len s he hp hb
  refine ⟨_, exec_squeeze_of_backed he hp hb, fun j hj => ?_, fun a ha => ?_, rfl⟩
  · exact (Memory.read?_writeRun_front s.out (by simpa using hj)).trans (getElem?_squeeze s.lanes hj)
  · exact Memory.read?_writeRun_beyond s.out (by simpa using ha)

theorem State.msgBytes_zero (s : State) (n : Nat) : s.msgBytes 0 n = (List.range n).map s.msgByte := by
  simp [State.msgBytes]

/-- Settles O30: `exec_hash_of_backed`; OUT reads as the front of the state below 32 and as before from there on. -/
theorem hashWritesTheDigest : Obligations.HashWritesTheDigest := by
  intro s he hb ho
  rw [← State.msgBytes_zero]
  refine ⟨_, exec_hash_of_backed he hb ho, fun j hj => ?_, fun a ha => ?_, rfl⟩
  · refine (Memory.read?_writeRun_front s.out (by simpa using hj)).trans ?_
    rw [Lanes.getElem?_front, if_pos hj]
  · exact Memory.read?_writeRun_beyond s.out (by simpa using ha)

/-! ### Block after block -/

section
variable {s : State} (hr : 136 ≤ s.remaining)
include hr

theorem State.block_le : s.mptr.toNat + 136 ≤ s.mlen.toNat := by rw [State.remaining] at hr; omega

theorem State.toNat_absorbBlock_mptr : s.absorbBlock.mptr.toNat = s.mptr.toNat + 136 :=
  toNat_mptr_add_block (State.block_le hr)

theorem State.remaining_absorbBlock : s.absorbBlock.remaining = s.remaining - 136 := by
  rw [State.remaining, State.toNat_absorbBlock_mptr hr]
  exact Nat.sub_add_eq _ _ _

/-- One turn of the absorb loop. -/
theorem State.absorbAll_absorbBlock : s.absorbBlock.absorbAll = s.absorbAll := by
  have hbytes : s.msgBytes s.mptr.toNat s.remaining =
      s.msgBytes s.mptr.toNat 136 ++ s.msgBytes (s.mptr.toNat + 136) (s.remaining - 136) := by
    rw [← State.msgBytes_append, Nat.add_sub_cancel' hr]
  have hloop : absorbFrom s.lanes (s.msgBytes s.mptr.toNat s.remaining) =
      absorbFrom s.absorbBlock.lanes (s.msgBytes (s.mptr.toNat + 136) (s.remaining - 136)) := by
    rw [absorbFrom_block _ _ (by simpa using hr), hbytes, List.take_left' (by simp), List.drop_left' (by simp)]
    rfl
  rw [State.absorbAll, State.absorbAll, hloop, State.toNat_absorbBlock_mptr hr, State.remaining_absorbBlock hr]
  rfl

end

namespace State.AbsorbReady

variable {s : State} (h : s.AbsorbReady)
include h

/-- The remainder is all that is left to absorb. -/
theorem exec_absf_eq_absorbAll (hr : s.remaining < 136) : exec .absf s = .next s.absorbAll := by
  rw [h.exec_absf hr, State.absorbAll, absorbFrom_remainder _ _ (by simpa using hr), State.length_msgBytes]

theorem exec_absb (hr : 136 ≤ s.remaining) : exec .absb s = .next s.absorbBlock := by
  have hl := State.block_le hr
  exact exec_absb_of_backed h.err h.phase hl fun i hi => h.backed _ (by omega) (by omega)

/-- After a block, ABSORB still does not fault. -/
theorem absorbBlock (hr : 136 ≤ s.remaining) : s.absorbBlock.AbsorbReady := by
  have hmptr := State.toNat_absorbBlock_mptr hr
  exact ⟨h.err, h.phase, hmptr.trans_le (State.block_le hr), fun a ha hlt => h.backed a (by omega) hlt⟩

end State.AbsorbReady

/-- The full blocks one by one and then the remainder leave what ABSORB leaves (41_sponge.md R136). -/
theorem runCommands_blocks (n : Nat) {s : State} (h : s.AbsorbReady) (hn : s.remaining / 136 = n) :
    runCommands (List.replicate n .absb ++ [.absf]) s = .next s.absorbAll := by
  induction n generalizing s with
  | zero =>
    simp only [List.replicate_zero, List.nil_append, runCommands_cons, h.exec_absf_eq_absorbAll (by omega),
      andThen_next, runCommands_nil]
  | succ n ih =>
    have hr : 136 ≤ s.remaining := by omega
    have hn' : s.absorbBlock.remaining / 136 = n := by rw [State.remaining_absorbBlock hr]; omega
    rw [List.replicate_succ, List.cons_append, runCommands_cons, h.exec_absb hr, andThen_next,
      ih (h.absorbBlock hr) hn', State.absorbAll_absorbBlock hr]

/-- Settles O26: both leave `State.absorbAll`. -/
theorem absorbIsBlocksThenRemainder : Obligations.AbsorbIsBlocksThenRemainder := by
  intro s he hp hl hb
  have ready : s.AbsorbReady := ⟨he, hp, hl, hb⟩
  exact (runCommands_blocks _ ready rfl).trans ready.exec_absorb.symm

/-! ### From INIT to the digest -/

/-- After INIT the whole message remains. -/
theorem runCommands_init_absorb {s : State} (he : s.err = false) (hb : ∀ a, a < s.mlen.toNat → s.msgBacked a = true) :
    runCommands [.init, .absorb] s =
      .next (((((s.setLanes Lanes.zero).setPhase .absorb).setMptr 0).setOlen 0).finalize
        (absorb (s.msgBytes 0 s.mlen.toNat))) := by
  have ready : ((((s.setLanes Lanes.zero).setPhase .absorb).setMptr 0).setOlen 0).AbsorbReady :=
    ⟨he, rfl, Nat.zero_le _, fun a _ ha => hb a ha⟩
  rw [runCommands_cons, exec_init he, andThen_next, runCommands_cons, ready.exec_absorb]
  rfl

theorem exec_squeeze_32 {s : State} (he : s.err = false) (hp : s.phase = .final)
    (ho : ∀ j, j < 32 → s.outBacked j = true) :
    exec (.squeeze 32) s =
      .next ((((s.setOut (s.out.writeRun 0 (s.lanes.front 32))).setLanes s.lanes).setOlen 32).setPhase .done) := by
  rw [exec_squeeze_of_backed (len := 32) he hp ho, show (32 : BitVec 16).toNat = 32 from rfl, squeeze_32]

/-- Settles O31: the states after INIT ; ABSORB ; SQUEEZE 32 and after HASH have the same fields. -/
theorem hashIsInitAbsorbSqueeze : Obligations.HashIsInitAbsorbSqueeze := by
  intro s he hb ho
  refine (runCommands_append [.init, .absorb] [.squeeze 32] s).trans ?_
  rw [runCommands_init_absorb he hb, andThen_next, runCommands_cons, exec_hash_of_backed he hb ho, exec_squeeze_32]
  · rfl
  · exact he
  · rfl
  · exact ho

section
variable {s : State} {m : List Byte} (h : s.holdsMessage m)
include h

theorem State.holdsMessage.backed : ∀ a, a < s.mlen.toNat → s.msgBacked a = true := by
  obtain ⟨hlen, hread⟩ := h
  obtain ⟨hb, -⟩ := State.readMsg_eq_some.1 hread
  simpa [hlen] using hb

theorem State.holdsMessage.msgBytes_eq : s.msgBytes 0 s.mlen.toNat = m := by
  obtain ⟨hlen, hread⟩ := h
  obtain ⟨-, hm⟩ := State.readMsg_eq_some.1 hread
  rw [hlen, ← hm]

end

/-- Settles O27: `runCommands_init_absorb` on the message the premises give; the loop by its two equations. -/
theorem initAbsorbIsAbsorbFunction : Obligations.InitAbsorbIsAbsorbFunction := by
  refine ⟨fun m s he h => ?_, fun _ => rfl, absorbFrom_block, absorbFrom_remainder⟩
  rw [runCommands_init_absorb he h.backed, h.msgBytes_eq]
  rfl

/-- What a command wrote at the front of OUT is what the host finds there. -/
theorem State.outBytes_of_writeRun {s : State} {m : Memory} {bs : List Byte} (h : s.out = m.writeRun 0 bs) :
    s.outBytes bs.length = bs.map some := by
  refine List.ext_getElem (by simp [State.outBytes]) fun j hj _ => ?_
  have hj : j < bs.length := by simpa [State.outBytes] using hj
  simp [State.outBytes, h, Memory.read?_writeRun_front m hj, hj]

/-- Settles O33: both engines end HASH with what it computes from `m`. -/
theorem hashForgetsHistory : Obligations.HashForgetsHistory := by
  intro m s t hs ht hsm htm hso hto
  have hmlen : s.mlen = t.mlen := BitVec.eq_of_toNat_eq (hsm.1.trans htm.1.symm)
  have hout (u : State) (n : Memory) (h : u.out = n.writeRun 0 ((absorb m).front 32)) :
      u.outBytes 32 = ((absorb m).front 32).map some := by
    simpa using State.outBytes_of_writeRun h
  have hsx := hsm.msgBytes_eq ▸ exec_hash_of_backed hs hsm.backed hso
  have htx := htm.msgBytes_eq ▸ exec_hash_of_backed ht htm.backed hto
  exact ⟨_, _, hsx, htx, rfl, rfl, hs.trans ht.symm, hmlen, rfl, (hout _ s.out rfl).trans (hout _ t.out rfl).symm⟩

end Sys2Proof.Machine
end

section
/-! Control does not depend on data (41_sponge.md R130 c): two runs from states with the same control registers and the
same backing, followed side by side through the checks; the lanes and the bytes may differ throughout. -/

namespace Sys2Proof.Machine

namespace State.sameControl

variable {s t : State} (h : s.sameControl t)
include h

theorem setLanes (A B : Lanes) : (s.setLanes A).sameControl (t.setLanes B) := h

theorem setOut (m n : Memory) : (s.setOut m).sameControl (t.setOut n) := h

theorem setPhase (p : Phase) : (s.setPhase p).sameControl (t.setPhase p) := by
  obtain ⟨-, h⟩ := h
  exact ⟨rfl, h⟩

theorem setFault (e : Bool) (c : Cause) : (s.setFault e c).sameControl (t.setFault e c) := by
  obtain ⟨phase, -, -, h⟩ := h
  exact ⟨phase, rfl, rfl, h⟩

theorem setMptr (v : Word) : (s.setMptr v).sameControl (t.setMptr v) := by
  obtain ⟨phase, err, cause, mlen, -, olen⟩ := h
  exact ⟨phase, err, cause, mlen, rfl, olen⟩

theorem setOlen (v : BitVec 16) : (s.setOlen v).sameControl (t.setOlen v) := by
  obtain ⟨phase, err, cause, mlen, mptr, -⟩ := h
  exact ⟨phase, err, cause, mlen, mptr, rfl⟩

end State.sameControl

/-- The two states agree on all a check may depend on: the control registers and the platform's backing. -/
structure State.SameChecks (s t : State) : Prop where
  control : s.sameControl t
  platform : s.platform = t.platform

/-- Both results complete, with the same control registers. -/
def SameControlAfter (r q : Result) : Prop :=
  ∃ s' t' : State, r = .next s' ∧ q = .next t' ∧ s'.sameControl t'

theorem SameControlAfter.next {s t : State} (h : s.sameControl t) : SameControlAfter (.next s) (.next t) :=
  ⟨s, t, rfl, rfl, h⟩

namespace State.SameChecks

variable {s t : State} (h : s.SameChecks t)
include h

theorem phase : t.phase = s.phase := by
  obtain ⟨phase, -⟩ := h.control
  exact phase.symm

theorem err : t.err = s.err := by
  obtain ⟨-, err, -⟩ := h.control
  exact err.symm

theorem mlen : t.mlen = s.mlen := by
  obtain ⟨-, -, -, mlen, -⟩ := h.control
  exact mlen.symm

theorem mptr : t.mptr = s.mptr := by
  obtain ⟨-, -, -, -, mptr, -⟩ := h.control
  exact mptr.symm

theorem remaining : t.remaining = s.remaining := by rw [State.remaining, h.mlen, h.mptr, State.remaining]

theorem overrun : t.overrun = s.overrun := by rw [State.overrun, h.mlen, h.mptr, State.overrun]

/-! ### The shared operations -/

/-- A read of MSG is refused in both states or in neither, whatever bytes it gives. -/
theorem readMsg_cases (a n : Nat) :
    (s.readMsg a n = none ∧ t.readMsg a n = none) ∨ ∃ d e, s.readMsg a n = some d ∧ t.readMsg a n = some e := by
  by_cases hb : ∀ i, i < n → s.msgBacked (a + i) = true
  · have hb' (i : Nat) (hi : i < n) : t.msgBacked (a + i) = true :=
      (State.msgBacked_congr h.platform.symm _).trans (hb i hi)
    exact .inr ⟨_, _, State.readMsg_of_backed hb, State.readMsg_of_backed hb'⟩
  · obtain ⟨i, hi, hb⟩ : ∃ i, i < n ∧ s.msgBacked (a + i) = false := by simpa using hb
    have hb' : t.msgBacked (a + i) = false := (State.msgBacked_congr h.platform.symm _).trans hb
    exact .inl ⟨State.readMsg_eq_none.2 ⟨i, hi, hb⟩, State.readMsg_eq_none.2 ⟨i, hi, hb'⟩⟩

theorem raise (c : Cause) : SameControlAfter (raise c s) (raise c t) := .next (h.control.setFault true c)

theorem accept {k l : Result} (hk : SameControlAfter k l) : SameControlAfter (accept s k) (accept t l) := by
  cases he : s.err with
  | true =>
    rw [accept_of_err he, accept_of_err (h.err.trans he)]
    exact .next h.control
  | false => rwa [accept_of_ok he, accept_of_ok (h.err.trans he)]

theorem finalize (A B : Lanes) : SameControlAfter (.next (s.finalize A)) (.next (t.finalize B)) := by
  rw [State.finalize, State.finalize, h.mlen]
  exact .next (((h.control.setLanes A B).setMptr s.mlen).setPhase .final)

/-- Outputs of the same length, delivered from `u` and `v`, which have the same control registers and backing. -/
theorem deliver {u v : State} (hu : u.SameChecks v) {r q : List Byte × Lanes} (hl : q.1.length = r.1.length)
    (len : BitVec 16) : SameControlAfter (deliver s u r len) (deliver t v q len) := by
  by_cases hb : ∀ j, j < r.1.length → u.outBacked j = true
  · have hb' (j : Nat) (hj : j < q.1.length) : v.outBacked j = true :=
      (State.outBacked_congr hu.platform.symm j).trans (hb j (hl ▸ hj))
    rw [deliver_of_backed hb, deliver_of_backed hb']
    exact .next ((((hu.control.setOut _ _).setLanes r.2 q.2).setOlen len).setPhase .done)
  · obtain ⟨j, hj, hb⟩ : ∃ j, j < r.1.length ∧ u.outBacked j = false := by simpa using hb
    have hb' : v.outBacked j = false := (State.outBacked_congr hu.platform.symm j).trans hb
    rw [deliver_of_unbacked ⟨j, hj, hb⟩, deliver_of_unbacked ⟨j, hl ▸ hj, hb'⟩]
    exact .next ((h.control.setOut _ _).setFault true .outAccess)

/-- The checks that ABSB, ABSF and ABSORB share: phase, then length. -/
theorem absorbChecks {badLength : Prop} [Decidable badLength] {k l : Result} (hk : SameControlAfter k l) :
    SameControlAfter
      (if s.phase ≠ .absorb then Machine.raise .badPhase s else if badLength then Machine.raise .badLength s else k)
      (if s.phase ≠ .absorb then Machine.raise .badPhase t else if badLength then Machine.raise .badLength t else l) := by
  split
  · exact h.raise .badPhase
  · split
    · exact h.raise .badLength
    · exact hk

/-! ### The commands -/

theorem mapLanes (f : Lanes → Lanes) : SameControlAfter (mapLanes f s) (mapLanes f t) :=
  h.accept (.next (h.control.setLanes _ _))

theorem mapLanesIndexed (f : Lanes → Fin 24 → Lanes) (ir : BitVec 8) :
    SameControlAfter (mapLanesIndexed f ir s) (mapLanesIndexed f ir t) := by
  refine h.accept ?_
  cases roundIndex? ir with
  | none => exact h.raise .badOperand
  | some r => exact .next (h.control.setLanes _ _)

theorem execInit : SameControlAfter (execInit s) (execInit t) :=
  h.accept (.next ((((h.control.setLanes _ _).setPhase .absorb).setMptr 0).setOlen 0))

theorem execAbsb : SameControlAfter (execAbsb s) (execAbsb t) := by
  refine h.accept ?_
  rw [h.phase, h.overrun, h.remaining, h.mptr]
  refine h.absorbChecks ?_
  obtain ⟨hs, ht⟩ | ⟨d, e, hs, ht⟩ := h.readMsg_cases s.mptr.toNat Config.rateBytes <;> rw [hs, ht]
  · exact h.raise .msgAccess
  · exact .next ((h.control.setLanes _ _).setMptr _)

theorem execAbsf : SameControlAfter (execAbsf s) (execAbsf t) := by
  refine h.accept ?_
  rw [h.phase, h.overrun, h.remaining, h.mptr]
  refine h.absorbChecks ?_
  obtain ⟨hs, ht⟩ | ⟨d, e, hs, ht⟩ := h.readMsg_cases s.mptr.toNat s.remaining <;> rw [hs, ht]
  · exact h.raise .msgAccess
  · exact h.finalize _ _

theorem execAbsorb : SameControlAfter (execAbsorb s) (execAbsorb t) := by
  refine h.accept ?_
  rw [h.phase, h.overrun, h.remaining, h.mptr]
  refine h.absorbChecks ?_
  obtain ⟨hs, ht⟩ | ⟨d, e, hs, ht⟩ := h.readMsg_cases s.mptr.toNat s.remaining <;> rw [hs, ht]
  · exact h.raise .msgAccess
  · exact h.finalize _ _

theorem execSqueeze (len : BitVec 16) : SameControlAfter (execSqueeze len s) (execSqueeze len t) := by
  refine h.accept ?_
  rw [h.phase]
  split
  · exact h.raise .badPhase
  · exact h.deliver h (by simp) len

theorem execHash : SameControlAfter (execHash s) (execHash t) := by
  refine h.accept ?_
  rw [h.mlen]
  obtain ⟨hs, ht⟩ | ⟨d, e, hs, ht⟩ := h.readMsg_cases 0 s.mlen.toNat <;> rw [hs, ht]
  · exact h.raise .msgAccess
  · exact h.deliver ⟨h.control.setMptr s.mlen, h.platform⟩ (by simp) 32

theorem exec (i : Instr) : SameControlAfter (exec i s) (exec i t) := by
  cases i with
  | init => exact h.execInit
  | theta => exact h.mapLanes theta
  | rho => exact h.mapLanes rho
  | pi => exact h.mapLanes pi
  | rhopi => exact h.mapLanes rhopi
  | chi => exact h.mapLanes chi
  | iota ir => exact h.mapLanesIndexed iota ir
  | round ir => exact h.mapLanesIndexed keccakRound ir
  | permute => exact h.mapLanes permute
  | absb => exact h.execAbsb
  | absf => exact h.execAbsf
  | absorb => exact h.execAbsorb
  | squeeze len => exact h.execSqueeze len
  | hash => exact h.execHash

end State.SameChecks

/-- Settles O34: the two runs take the same branch of every check, since none of them reads a lane or a byte. -/
theorem controlIgnoresData : Obligations.ControlIgnoresData :=
  fun i _ _ control platform => State.SameChecks.exec ⟨control, platform⟩ i

end Sys2Proof.Machine
end

section
/-! Hex text of a digest (42_digest_format.md R161, R163): its characters, digit by digit, and reading it back. -/

namespace Sys2Proof

theorem highDigit_lt (b : Byte) : b.toNat / 16 < 16 := by omega

theorem lowDigit_lt (b : Byte) : b.toNat % 16 < 16 := by omega

theorem highDigit_eq_shiftRight (b : Byte) : b.toNat / 16 = (b >>> 4).toNat := by
  simp [Nat.shiftRight_eq_div_pow]

theorem lowDigit_eq_and (b : Byte) : b.toNat % 16 = (b &&& 0x0F).toNat := by
  simpa using (Nat.and_two_pow_sub_one_eq_mod b.toNat 4).symm

theorem hexDigits_getElem? {v : Nat} (h : v < 16) : hexDigits[v]? = some (hexDigit v) := by
  simp [hexDigit, List.getD_eq_getElem?_getD, List.getElem?_eq_getElem (show v < hexDigits.length from h)]

theorem hexDigits_lowercase : ∀ c ∈ hexDigits, ('0' ≤ c ∧ c ≤ '9') ∨ ('a' ≤ c ∧ c ≤ 'f') := by
  simp [hexDigits]

/-- R161's formula, by recursion on the bytes: each byte is two characters further. -/
theorem hexDigest_getElem? (out : List Byte) (j : Nat) (h : j < out.length) :
    (hexDigest out)[2 * j]? = some (hexDigit (out[j].toNat / 16)) ∧
    (hexDigest out)[2 * j + 1]? = some (hexDigit (out[j].toNat % 16)) := by
  induction out generalizing j with
  | nil => cases h
  | cons b bs ih =>
    cases j with
    | zero => exact ⟨rfl, rfl⟩
    | succ j => exact ih j (Nat.lt_of_succ_lt_succ h)

theorem mem_hexDigits_of_mem_hexDigest {c : Char} {bs : List Byte} (h : c ∈ hexDigest bs) : c ∈ hexDigits := by
  induction bs with
  | nil => cases h
  | cons b bs ih =>
    obtain rfl | rfl | h : c = hexDigit (b.toNat / 16) ∨ c = hexDigit (b.toNat % 16) ∨ c ∈ hexDigest bs := by
      simpa [hexDigest] using h
    · exact hexDigit_mem (highDigit_lt b)
    · exact hexDigit_mem (lowDigit_lt b)
    · exact ih h

/-- Two digits of a byte give the byte again, as its quotient and remainder by 16. -/
theorem hexDecode_hexDigest (bs : List Byte) : hexDecode (hexDigest bs) = some bs := by
  induction bs with
  | nil => rfl
  | cons b bs ih =>
    simp only [hexDigest, hexDecode, hexValue?_hexDigit (highDigit_lt b), hexValue?_hexDigit (lowDigit_lt b), ih,
      Nat.div_add_mod, BitVec.ofNat_toNat, BitVec.setWidth_eq]

/-- Text that decodes is two characters a byte, so text of odd length does not. -/
theorem length_of_hexDecode {t : List Char} {bs : List Byte} (h : hexDecode t = some bs) :
    t.length = 2 * bs.length := by
  induction t using hexDecode.induct generalizing bs with
  | case1 => cases h; rfl
  | case2 c => cases h
  | case3 c d cs hi lo tail htail hlo hhi ih =>
    rw [hexDecode, hhi, hlo, htail] at h
    cases h
    simp only [List.length_cons, ih htail, Nat.mul_succ]
  | case4 c d cs hnone ih =>
    rw [hexDecode] at h
    split at h
    next hhi hlo htail => exact (hnone _ _ _ hhi hlo htail).elim
    next => cases h

/-- Settles O59: the digits one by one, the round trip by recursion on the bytes, and 63 is odd. -/
theorem hexRoundTrip : Obligations.HexRoundTrip := by
  refine ⟨fun out => ⟨length_hexDigest out, fun j hj => ?_⟩, hexDecode_hexDigest,
    fun m => ⟨hexDecode_hexDigest _, by simp [hashHex], fun c hc => ?_⟩, fun t ht => ?_⟩
  · obtain ⟨hhigh, hlow⟩ := hexDigest_getElem? out j hj
    rw [← hexDigits_getElem? (highDigit_lt _), highDigit_eq_shiftRight] at hhigh
    rw [← hexDigits_getElem? (lowDigit_lt _), lowDigit_eq_and] at hlow
    exact ⟨hhigh, hlow⟩
  · exact hexDigits_lowercase c (mem_hexDigits_of_mem_hexDigest hc)
  · refine Option.eq_none_iff_forall_ne_some.2 fun bs hbs => ?_
    have := length_of_hexDecode hbs
    omega

end Sys2Proof
end

section
/-! Faults (60_exceptions.md): the conditions of R173 to R177 command by command, the first of them that applies, and
what a command does when one applies and when none does. -/

namespace Sys2Proof.Machine

/-! ### The conditions -/

/-- The phase condition of a command fails (60_exceptions.md R174). -/
def BadPhase (s : State) : Instr → Prop
  | .absb | .absf | .absorb => s.phase ≠ .absorb
  | .squeeze _ => s.phase ≠ .final
  | _ => False

/-- The count of unabsorbed bytes does not fit the command (60_exceptions.md R175). -/
def BadLength (s : State) : Instr → Prop
  | .absb => s.mlen.toNat < s.mptr.toNat + 136
  | .absf => s.mlen.toNat < s.mptr.toNat ∨ s.mptr.toNat + 136 ≤ s.mlen.toNat
  | .absorb => s.mlen.toNat < s.mptr.toNat
  | _ => False

/-- A message byte the command needs is not backed (60_exceptions.md R177). -/
def MsgUnbacked (s : State) : Instr → Prop
  | .absb => ∃ i, i < 136 ∧ s.msgBacked (s.mptr.toNat + i) = false
  | .absf | .absorb => ∃ a, s.mptr.toNat ≤ a ∧ a < s.mlen.toNat ∧ s.msgBacked a = false
  | .hash => ∃ a, a < s.mlen.toNat ∧ s.msgBacked a = false
  | _ => False

/-- An output byte the command must write is not backed (60_exceptions.md R177). -/
def OutUnbacked (s : State) : Instr → Prop
  | .hash => ∃ j, j < 32 ∧ s.outBacked j = false
  | .squeeze len => ∃ j, j < len.toNat ∧ s.outBacked j = false
  | _ => False

/-- The cause a command raises: the first condition that applies, in the order of 60_exceptions.md R178. Only IOTA and
ROUND have an operand to check, and they have no other condition. -/
inductive Raises (s : State) (i : Instr) : Cause → Prop where
  | badOperand (hw : i.wf = false) : Raises s i .badOperand
  | badPhase (hp : BadPhase s i) : Raises s i .badPhase
  | badLength (hp : ¬ BadPhase s i) (hl : BadLength s i) : Raises s i .badLength
  | msgAccess (hp : ¬ BadPhase s i) (hl : ¬ BadLength s i) (hm : MsgUnbacked s i) : Raises s i .msgAccess
  | outAccess (hp : ¬ BadPhase s i) (hl : ¬ BadLength s i) (hm : ¬ MsgUnbacked s i) (ho : OutUnbacked s i) :
      Raises s i .outAccess

/-- No condition applies. -/
structure PassesChecks (s : State) (i : Instr) : Prop where
  operand : i.wf = true
  phase : ¬ BadPhase s i
  length : ¬ BadLength s i
  msg : ¬ MsgUnbacked s i
  out : ¬ OutUnbacked s i

theorem raises_or_passesChecks (s : State) (i : Instr) : (∃ c, Raises s i c) ∨ PassesChecks s i := by
  by_cases hw : i.wf = false
  · exact .inl ⟨_, .badOperand hw⟩
  by_cases hp : BadPhase s i
  · exact .inl ⟨_, .badPhase hp⟩
  by_cases hl : BadLength s i
  · exact .inl ⟨_, .badLength hp hl⟩
  by_cases hm : MsgUnbacked s i
  · exact .inl ⟨_, .msgAccess hp hl hm⟩
  by_cases ho : OutUnbacked s i
  · exact .inl ⟨_, .outAccess hp hl hm ho⟩
  exact .inr ⟨by simpa using hw, hp, hl, hm, ho⟩

theorem Raises.ne_none {s : State} {i : Instr} {c : Cause} (h : Raises s i c) : c ≠ .none := by
  cases h <;> nofun

/-! ### The state a fault leaves -/

/-- How many bytes of OUT the command writes, from address 0 on (41_sponge.md R140, R141). -/
def outputLength : Instr → Nat
  | .hash => 32
  | .squeeze len => len.toNat
  | _ => 0

/-- The state a fault of the command leaves: ERR and CAUSE written, and under OUT_ACCESS the bytes of OUT it was to
write without a value (60_exceptions.md R176, R177; log 8). -/
def State.faultedBy (s : State) (i : Instr) : Cause → State
  | .outAccess => (s.spoilOut (outputLength i)).setFault true .outAccess
  | c => s.setFault true c

section
variable (s : State) (i : Instr) (c : Cause)

@[simp] theorem State.faultedBy_err : (s.faultedBy i c).err = true := by cases c <;> rfl

@[simp] theorem State.faultedBy_cause : (s.faultedBy i c).cause = c := by cases c <;> rfl

theorem State.faultedBy_frame :
    s.faultedBy i c = { s with err := true, cause := (s.faultedBy i c).cause, out := (s.faultedBy i c).out } := by
  cases c <;> rfl

theorem State.faultedBy_outAccess_read (a : Nat) :
    (s.faultedBy i .outAccess).out.read? a = if a < outputLength i then none else s.out.read? a := by
  simp [State.faultedBy, Memory.read?_eraseRun]

end

theorem State.faultedBy_eq {c : Cause} (hc : c ≠ .outAccess) (s : State) (i : Instr) :
    s.faultedBy i c = s.setFault true c := by
  cases c with
  | outAccess => exact absurd rfl hc
  | _ => rfl

/-! ### A command whose checks fail, and one whose checks pass -/

theorem State.overrun_iff {s : State} : s.overrun = true ↔ s.mlen.toNat < s.mptr.toNat := decide_eq_true_iff

theorem badLength_absb_iff {s : State} :
    (s.overrun = true ∨ s.remaining < Config.rateBytes) ↔ BadLength s .absb := by
  simp only [BadLength, State.overrun_iff, State.remaining, Config.rateBytes_eq]
  omega

theorem badLength_absf_iff {s : State} :
    (s.overrun = true ∨ s.remaining ≥ Config.rateBytes) ↔ BadLength s .absf := by
  simp only [BadLength, State.overrun_iff, State.remaining, Config.rateBytes_eq]
  omega

/-- The checks that ABSB, ABSF and ABSORB share, when the length check fails. -/
theorem absorbChecks_badLength {s : State} {badLength : Prop} [Decidable badLength] {k : Result} (he : s.err = false)
    (hp : ¬ s.phase ≠ .absorb) (hl : badLength) :
    accept s (if s.phase ≠ .absorb then raise .badPhase s else if badLength then raise .badLength s else k) =
      .next (s.setFault true .badLength) := by
  rw [accept_of_ok he, if_neg hp, if_pos hl, raise_eq]

/-- The same checks, when both pass. -/
theorem absorbChecks_passed {s : State} {badLength : Prop} [Decidable badLength] {k : Result} (he : s.err = false)
    (hp : ¬ s.phase ≠ .absorb) (hl : ¬ badLength) :
    accept s (if s.phase ≠ .absorb then raise .badPhase s else if badLength then raise .badLength s else k) = k := by
  rw [accept_of_ok he, if_neg hp, if_neg hl]

theorem State.readMsg_remaining_eq_none {s : State}
    (h : ∃ a, s.mptr.toNat ≤ a ∧ a < s.mlen.toNat ∧ s.msgBacked a = false) :
    s.readMsg s.mptr.toNat s.remaining = none := by
  obtain ⟨a, ha, hlt, hb⟩ := h
  obtain ⟨i, rfl⟩ := Nat.exists_eq_add_of_le ha
  exact State.readMsg_eq_none.2 ⟨i, by rw [State.remaining]; omega, hb⟩

theorem deliver_squeeze_of_unbacked (s0 s : State) (A : Lanes) {n : Nat} (len : BitVec 16)
    (ho : ∃ j, j < n ∧ s.outBacked j = false) :
    deliver s0 s (squeeze A n) len = .next ((s0.spoilOut n).setFault true .outAccess) := by
  rw [deliver_of_unbacked (by rwa [length_squeeze]), length_squeeze]

section
variable {s : State} (he : s.err = false) {i : Instr}
include he

theorem exec_badPhase (hp : BadPhase s i) : exec i s = .next (s.setFault true .badPhase) := by
  cases i with
  | absb | absf | absorb => exact exec_absorbing_badPhase (by simp) he hp
  | squeeze len => exact exec_squeeze_badPhase he hp len
  | _ => cases hp

theorem exec_badLength (hp : ¬ BadPhase s i) (hl : BadLength s i) :
    exec i s = .next (s.setFault true .badLength) := by
  cases i with
  | absb => exact absorbChecks_badLength he hp (badLength_absb_iff.2 hl)
  | absf => exact absorbChecks_badLength he hp (badLength_absf_iff.2 hl)
  | absorb => exact absorbChecks_badLength he hp (State.overrun_iff.2 hl)
  | _ => cases hl

theorem exec_msgAccess (hp : ¬ BadPhase s i) (hl : ¬ BadLength s i) (hm : MsgUnbacked s i) :
    exec i s = .next (s.setFault true .msgAccess) := by
  cases i with
  | absb =>
    refine (absorbChecks_passed he hp (mt badLength_absb_iff.1 hl)).trans ?_
    rw [Config.rateBytes_eq, State.readMsg_eq_none.2 hm, raise_eq]
  | absf =>
    refine (absorbChecks_passed he hp (mt badLength_absf_iff.1 hl)).trans ?_
    rw [State.readMsg_remaining_eq_none hm, raise_eq]
  | absorb =>
    refine (absorbChecks_passed he hp (mt State.overrun_iff.1 hl)).trans ?_
    rw [State.readMsg_remaining_eq_none hm, raise_eq]
  | hash =>
    have hread : s.readMsg 0 s.mlen.toNat = none := State.readMsg_eq_none.2 (by simpa [MsgUnbacked] using hm)
    exact (accept_of_ok he _).trans (by rw [hread, raise_eq])
  | _ => cases hm

theorem exec_outAccess (hp : ¬ BadPhase s i) (hm : ¬ MsgUnbacked s i) (ho : OutUnbacked s i) :
    exec i s = .next (s.faultedBy i .outAccess) := by
  cases i with
  | squeeze len =>
    exact ((accept_of_ok he _).trans (if_neg hp)).trans (deliver_squeeze_of_unbacked s s s.lanes len ho)
  | hash =>
    have hread : s.readMsg 0 s.mlen.toNat = some (s.msgBytes 0 s.mlen.toNat) :=
      State.readMsg_of_backed (by simpa [MsgUnbacked] using hm)
    refine (accept_of_ok he _).trans ?_
    rw [hread]
    exact deliver_squeeze_of_unbacked s (s.setMptr s.mlen) _ 32 ho
  | _ => cases ho

/-- A command that raises a cause records it and leaves the rest as `State.faultedBy` says. -/
theorem exec_of_raises {c : Cause} (h : Raises s i c) : exec i s = .next (s.faultedBy i c) := by
  cases h with
  | badOperand hw => exact exec_of_not_wf hw he
  | badPhase hp => exact exec_badPhase he hp
  | badLength hp hl => exact exec_badLength he hp hl
  | msgAccess hp hl hm => exact exec_msgAccess he hp hl hm
  | outAccess hp _ hm ho => exact exec_outAccess he hp hm ho

/-- A command whose checks all pass completes and records no fault. -/
theorem exec_of_passesChecks (h : PassesChecks s i) : ∃ t : State, exec i s = .next t ∧ t.err = false := by
  obtain ⟨hw, hp, hl, hm, ho⟩ := h
  cases i with
  | init => exact ⟨_, exec_init he, by simpa using he⟩
  | absb =>
    exact ⟨_, exec_absb_of_backed he (not_not.1 hp) (by simpa [BadLength] using hl)
      (by simpa [MsgUnbacked] using hm), by simpa [State.absorbBlock] using he⟩
  | absf =>
    simp only [BadLength, not_or, Nat.not_lt, Nat.not_le] at hl
    obtain ⟨hle, hlt⟩ := hl
    have ready : s.AbsorbReady := ⟨he, not_not.1 hp, hle, by simpa [MsgUnbacked] using hm⟩
    exact ⟨_, ready.exec_absf (by rw [State.remaining]; omega), by simpa using he⟩
  | absorb =>
    have ready : s.AbsorbReady := ⟨he, not_not.1 hp, by simpa [BadLength] using hl, by simpa [MsgUnbacked] using hm⟩
    exact ⟨_, ready.exec_absorb, by simpa [State.absorbAll] using he⟩
  | squeeze len =>
    exact ⟨_, exec_squeeze_of_backed he (not_not.1 hp) (by simpa [OutUnbacked] using ho), by simpa using he⟩
  | hash =>
    exact ⟨_, exec_hash_of_backed he (by simpa [MsgUnbacked] using hm) (by simpa [OutUnbacked] using ho),
      by simpa using he⟩
  | theta | rho | pi | rhopi | chi | permute | iota _ | round _ =>
    exact ⟨_, exec_datapath rfl hw he, by simpa using he⟩

/-- A command that ends with a fault recorded raised the cause recorded. -/
theorem raises_of_exec {t : State} (h : exec i s = .next t) (ht : t.err = true) :
    Raises s i t.cause ∧ t = s.faultedBy i t.cause := by
  obtain ⟨c, hc⟩ | hpass := raises_or_passesChecks s i
  · rw [exec_of_raises he hc] at h
    injection h with h
    subst h
    rw [State.faultedBy_cause]
    exact ⟨hc, rfl⟩
  · obtain ⟨u, hu, herr⟩ := exec_of_passesChecks he hpass
    rw [hu] at h
    injection h with h
    simp [← h, herr] at ht

theorem exec_eq_setFault_iff {c : Cause} (hc : c ≠ .outAccess) :
    exec i s = .next (s.setFault true c) ↔ Raises s i c :=
  ⟨fun h => (raises_of_exec he h rfl).1, fun h => (exec_of_raises he h).trans (by rw [State.faultedBy_eq hc])⟩

end

/-! ### Each cause, exactly -/

theorem Phase.ne_absorb_iff {p : Phase} : p ≠ .absorb ↔ p = .final ∨ p = .done := by cases p <;> simp

theorem Phase.ne_final_iff {p : Phase} : p ≠ .final ↔ p = .absorb ∨ p = .done := by cases p <;> simp

/-- Settles O37: a command with an illegal operand is an IOTA or a ROUND with an index of 24 or more. -/
theorem badOperandExactly : Obligations.BadOperandExactly := by
  intro i s he
  rw [exec_eq_setFault_iff he (c := .badOperand) nofun]
  constructor
  · rintro ⟨hw⟩
    cases i with
    | iota ir => exact ⟨ir, Nat.le_of_not_lt (of_decide_eq_false hw), .inl rfl⟩
    | round ir => exact ⟨ir, Nat.le_of_not_lt (of_decide_eq_false hw), .inr rfl⟩
    | _ => cases hw
  · rintro ⟨ir, hir, rfl | rfl⟩ <;> exact .badOperand (decide_eq_false (Nat.not_lt.2 hir))

/-- Settles O38: the phase condition comes first, so it is raised exactly when it applies. -/
theorem badPhaseExactly : Obligations.BadPhaseExactly := by
  intro i s he
  have hraises : Raises s i .badPhase ↔ BadPhase s i := ⟨fun | .badPhase hp => hp, .badPhase⟩
  rw [exec_eq_setFault_iff he (c := .badPhase) nofun, hraises, ← Phase.ne_absorb_iff, ← Phase.ne_final_iff]
  cases i <;> simp [BadPhase]

/-- Settles O39: the length condition is raised when it applies and the phase is ABSORB. -/
theorem badLengthExactly : Obligations.BadLengthExactly := by
  intro i s he
  have hraises : Raises s i .badLength ↔ ¬ BadPhase s i ∧ BadLength s i :=
    ⟨fun | .badLength hp hl => ⟨hp, hl⟩, fun ⟨hp, hl⟩ => .badLength hp hl⟩
  rw [exec_eq_setFault_iff he (c := .badLength) nofun, hraises]
  cases i <;> simp [BadPhase, BadLength] <;> omega

/-! ### Access faults -/

theorem exec_squeeze_unbacked {s : State} (he : s.err = false) {len : BitVec 16} (hp : s.phase = .final)
    (ho : ∃ j, j < len.toNat ∧ s.outBacked j = false) :
    exec (.squeeze len) s = .next (s.faultedBy (.squeeze len) .outAccess) :=
  exec_of_raises he (.outAccess (not_not.2 hp) id id ho)

theorem exec_hash_unbacked {s : State} (he : s.err = false) (hb : ∀ a, a < s.mlen.toNat → s.msgBacked a = true)
    (ho : ∃ j, j < 32 ∧ s.outBacked j = false) : exec .hash s = .next (s.faultedBy .hash .outAccess) :=
  exec_of_raises he (.outAccess id id (fun ⟨a, ha, hm⟩ => by simp [hb a ha] at hm) ho)

/-- Settles O40: with the earlier conditions excluded by the premises, each clause is a cause that is raised. -/
theorem accessFaults : Obligations.AccessFaults := by
  intro s he
  refine ⟨fun hp hl hm => ?_, fun hp hle hlt hm => ?_, fun hp hm => ?_, fun hm => ?_, fun len hp ho => ?_,
    fun hb ho => ?_⟩
  · exact exec_msgAccess he (not_not.2 hp) (Nat.not_lt.2 hl) hm
  · exact exec_msgAccess he (not_not.2 hp) (by simp only [BadLength]; omega) hm
  · have ⟨a, ha, hlt, _⟩ := hm
    exact exec_msgAccess he (not_not.2 hp) (by simp only [BadLength]; omega) hm
  · exact exec_msgAccess he id id hm
  · exact ⟨_, exec_squeeze_unbacked he hp ho, State.faultedBy_frame s _ _, fun a ha =>
      (State.faultedBy_outAccess_read s _ a).trans (if_neg (Nat.not_lt.2 ha))⟩
  · exact ⟨_, exec_hash_unbacked he hb ho, State.faultedBy_frame s _ _, fun a ha =>
      (State.faultedBy_outAccess_read s _ a).trans (if_neg (Nat.not_lt.2 ha))⟩

theorem read?_of_exec_outAccess {i : Instr} {s t : State} (he : s.err = false) (h : exec i s = .next t)
    (ht : t.err = true) (hc : t.cause = .outAccess) {a : Nat} (ha : a < outputLength i) : t.out.read? a = none := by
  obtain ⟨-, hs⟩ := raises_of_exec he h ht
  rw [hs, hc, State.faultedBy_outAccess_read, if_pos ha]

/-- Settles O41: the two commands write OUT from address 0 on, `L` bytes and 32 bytes. -/
theorem outAccessLeavesNoDefinedBytes : Obligations.OutAccessLeavesNoDefinedBytes :=
  ⟨fun _ _ _ he h ht hc _ ha => read?_of_exec_outAccess he h ht hc ha,
    fun _ _ he h ht hc _ ha => read?_of_exec_outAccess he h ht hc ha⟩

/-! ### One cause an issued word, and nothing else changed -/

/-! The conditions of a command, read off the fields of its word. -/

theorem illegalOperand_word (i : Instr) :
    ((opField (encode i)).toNat = 0x15 ∨ (opField (encode i)).toNat = 0x16) ∧ 24 ≤ (aField (encode i)).toNat ↔
      i.wf = false := by
  cases i <;> simp [encode, Instr.wf]

/-- The opcode is that of an absorb command. -/
abbrev AbsorbOpcode (op : BitVec 8) : Prop := op.toNat = 0x20 ∨ op.toNat = 0x21 ∨ op.toNat = 0x22

theorem badPhase_word (s : State) (i : Instr) :
    (AbsorbOpcode (opField (encode i)) ∧ s.phase ≠ .absorb) ∨
      ((opField (encode i)).toNat = 0x30 ∧ s.phase ≠ .final) ↔
      BadPhase s i := by
  cases i <;> simp [encode, AbsorbOpcode, BadPhase]

theorem badLength_word (s : State) (i : Instr) :
    (AbsorbOpcode (opField (encode i)) ∧ s.mlen.toNat < s.mptr.toNat) ∨
      ((opField (encode i)).toNat = 0x20 ∧ s.mlen.toNat < s.mptr.toNat + 136) ∨
      ((opField (encode i)).toNat = 0x21 ∧ s.mptr.toNat + 136 ≤ s.mlen.toNat) ↔
      BadLength s i := by
  cases i <;> simp [encode, AbsorbOpcode, BadLength]
  omega

theorem msgUnbacked_word (s : State) (i : Instr) :
    ((opField (encode i)).toNat = 0x20 ∧ ∃ k, k < 136 ∧ s.msgBacked (s.mptr.toNat + k) = false) ∨
      (((opField (encode i)).toNat = 0x21 ∨ (opField (encode i)).toNat = 0x22) ∧
        ∃ k, s.mptr.toNat ≤ k ∧ k < s.mlen.toNat ∧ s.msgBacked k = false) ∨
      ((opField (encode i)).toNat = 0x40 ∧ ∃ k, k < s.mlen.toNat ∧ s.msgBacked k = false) ↔
      MsgUnbacked s i := by
  cases i <;> simp [encode, MsgUnbacked]

theorem outUnbacked_word (s : State) (i : Instr) :
    ((opField (encode i)).toNat = 0x30 ∧ ∃ j, j < (bField (encode i)).toNat ∧ s.outBacked j = false) ∨
      ((opField (encode i)).toNat = 0x40 ∧ ∃ j, j < 32 ∧ s.outBacked j = false) ↔
      OutUnbacked s i := by
  cases i <;> simp [encode, OutUnbacked]

/-- Settles O42: an illegal word is rejected by the decoder; for a command the conditions on the word's fields are those
of `Raises` and `PassesChecks`. -/
theorem causeIsTheFirstThatApplies : Obligations.CauseIsTheFirstThatApplies := by
  refine ⟨fun W s he => issue_of_err he W, fun W s t he h => ?_, fun s he _ => ?_, fun s he hp _ => ?_⟩
  · intro op a b absorbs illegal operand phase length msg out
    have houtcome := decode_outcome W
    generalize hd : decode W = d at houtcome
    have rejected {e : DecodeReject} (hd : decode W = .error e) : t.err = true ∧ t.cause = .illegalCmd := by
      rw [issue_of_rejected hd he] at h
      injection h with h
      subst h
      exact ⟨rfl, rfl⟩
    cases houtcome with
    | unknownOpcode hk =>
      have hi : illegal := .inl hk
      exact ⟨fun _ => rejected hd, absurd hi, absurd hi, absurd hi, absurd hi, absurd hi, absurd hi⟩
    | reservedField _ hr =>
      have hi : illegal := .inr hr
      exact ⟨fun _ => rejected hd, absurd hi, absurd hi, absurd hi, absurd hi, absurd hi, absurd hi⟩
    | command hk hr i hi =>
      have legal : ¬ illegal := not_or.2 ⟨not_not.2 hk, hr⟩
      rw [issue_of_ok hd] at h
      have hoperand : operand ↔ i.wf = false := by subst hi; exact illegalOperand_word i
      have hphase : phase ↔ BadPhase s i := by subst hi; exact badPhase_word s i
      have hlength : length ↔ BadLength s i := by subst hi; exact badLength_word s i
      have hmsg : msg ↔ MsgUnbacked s i := by subst hi; exact msgUnbacked_word s i
      have hout : out ↔ OutUnbacked s i := by subst hi; exact outUnbacked_word s i
      have raised {c : Cause} (hc : Raises s i c) : t.err = true ∧ t.cause = c := by
        rw [exec_of_raises he hc] at h
        injection h with h
        simp [← h]
      rw [hoperand, hphase, hlength, hmsg, hout]
      refine ⟨fun hi => absurd hi legal, fun _ hw => raised (.badOperand hw), fun _ hp => raised (.badPhase hp),
        fun _ hp hl => raised (.badLength hp hl), fun _ hp hl hm => raised (.msgAccess hp hl hm),
        fun _ hp hl hm ho => raised (.outAccess hp hl hm ho), fun _ hw hp hl hm ho => ?_⟩
      obtain ⟨u, hu, herr⟩ := exec_of_passesChecks he ⟨by simpa using hw, hp, hl, hm, ho⟩
      cases h.symm.trans hu
      exact herr
  · exact issue_of_rejected (e := .reservedField) (by decide) he
  · exact (issue_of_ok (i := .absf) (by decide) s).trans (exec_badPhase he (by simp [BadPhase, hp]))

/-- A fault writes ERR and CAUSE, and OUT under OUT_ACCESS alone (60_exceptions.md R176). -/
theorem exec_fault_frame {i : Instr} {s t : State} (he : s.err = false) (h : exec i s = .next t) (ht : t.err = true) :
    t = { s with err := true, cause := t.cause, out := t.out } ∧ (t.cause ≠ .outAccess → t.out = s.out) := by
  obtain ⟨-, hs⟩ := raises_of_exec he h ht
  refine ⟨?_, fun hc => ?_⟩
  · rw [hs]; exact State.faultedBy_frame s i _
  · rw [hs, State.faultedBy_eq hc, State.setFault_out]

/-- Settles O43: the frame is `exec_fault_frame`; the table of R171 is read off the conditions, which are false for the
other commands. -/
theorem faultsArePrecise : Obligations.FaultsArePrecise := by
  refine ⟨fun W s t he h ht => ?_, fun i s t he h ht => ?_⟩
  · cases hd : decode W with
    | error e =>
      rw [issue_of_rejected hd he] at h
      injection h with h
      subst h
      exact ⟨rfl, nofun, fun _ => rfl⟩
    | ok i =>
      rw [issue_of_ok hd] at h
      obtain ⟨hframe, hout⟩ := exec_fault_frame he h ht
      exact ⟨hframe, (raises_of_exec he h ht).1.ne_none, hout⟩
  · obtain ⟨hframe, hout⟩ := exec_fault_frame he h ht
    refine ⟨hframe, hout, ?_⟩
    obtain ⟨hc, -⟩ := raises_of_exec he h ht
    generalize t.cause = c at hc
    cases hc with
    | badOperand hw => cases i with
      | iota _ | round _ => rfl
      | _ => cases hw
    | badPhase hp => cases i with
      | absb | absf | absorb | squeeze _ => simp
      | _ => cases hp
    | badLength _ hl => cases i with
      | absb | absf | absorb => simp
      | _ => cases hl
    | msgAccess _ _ hm => cases i with
      | absb | absf | absorb | hash => simp
      | _ => cases hm
    | outAccess _ _ _ ho => cases i with
      | squeeze _ | hash => simp
      | _ => cases ho

/-! ### While a fault is recorded -/

/-- Settles O7: `step_idle`. -/
theorem idleStepChangesNothing : Obligations.IdleStepChangesNothing := fun _ => step_idle

/-- Settles O44: `accept` refuses every word; the host's accesses do not read ERR. -/
theorem recordedFaultRefusesEverything : Obligations.RecordedFaultRefusesEverything := by
  intro s he
  refine ⟨issue_of_err he, exec_of_err he _, exec_of_err he _, fun i v hi => ⟨if_pos hi, if_pos hi⟩, fun v => rfl,
    fun n hn => ?_, fun ⟨_, hok⟩ => by simp [he] at hok⟩
  match n, hn with
  | 0, _ | 1, _ | 2, _ | 3, _ => exact ⟨_, rfl⟩

/-- A host operation other than HostReset keeps ERR = 1 and the recorded cause (60_exceptions.md R179, R180). -/
theorem perform_keeps_fault {op : HostOp} {s t : State} (h : perform op s = .next t) (hop : op ≠ .reset)
    (he : s.err = true) : t.err = true ∧ t.cause = s.cause := by
  cases op with
  | reset => exact absurd rfl hop
  | issue W => cases (issue_of_err he W).symm.trans h; exact ⟨he, rfl⟩
  | readLane i => obtain ⟨-, rfl⟩ := hostReadLane_cases h; exact ⟨he, rfl⟩
  | writeLane i v => obtain ⟨-, rfl⟩ := hostWriteLane_cases h; exact ⟨he, rfl⟩
  | readCr n => obtain ⟨v, -, rfl⟩ := hostReadCr_cases h; exact ⟨he, rfl⟩
  | writeCr n v => obtain ⟨-, rfl⟩ | ⟨-, rfl⟩ := hostWriteCr_cases h <;> exact ⟨he, rfl⟩
  | writeMsg a v => obtain ⟨-, rfl⟩ := hostWriteMsg_cases h; exact ⟨he, rfl⟩
  | readOut a => obtain ⟨-, ⟨v, -, rfl⟩ | ⟨-, v, rfl⟩⟩ := hostReadOut_cases h <;> exact ⟨he, rfl⟩

/-- Settles O45: an idle step changes nothing, and every operation but HostReset keeps ERR and CAUSE. -/
theorem onlyResetClearsAFault : Obligations.OnlyResetClearsAFault := by
  intro s t he h hchange
  obtain ⟨-, rfl⟩ | ⟨op, rest, hhost, h⟩ := step_cases h
  · simp [he] at hchange
  · by_cases hop : op = .reset
    · subst hop
      cases h
      exact ⟨rest, hhost, rfl, rfl, fun i _ => Lanes.reg_zero i, rfl, rfl, rfl, rfl⟩
    · obtain ⟨herr, hcause⟩ := perform_keeps_fault h hop he
      simp [herr, hcause] at hchange

end Sys2Proof.Machine
end

section
/-! Reset against INIT, and hashing under the launch premises (70_reset_and_hazards.md). -/

namespace Sys2Proof.Machine

/-! ### The launch premises -/

/-- After INIT, the full blocks one by one and the remainder may stand for ABSORB, whatever follows (41_sponge.md R136,
R137). -/
theorem runCommands_init_blocks {s : State} (he : s.err = false) (hb : ∀ a, a < s.mlen.toNat → s.msgBacked a = true)
    (is : List Instr) :
    runCommands (.init :: (List.replicate (s.mlen.toNat / 136) .absb ++ .absf :: is)) s =
      runCommands (.init :: .absorb :: is) s := by
  have hblocks := absorbIsBlocksThenRemainder ((((s.setLanes Lanes.zero).setPhase .absorb).setMptr 0).setOlen 0)
    he rfl (Nat.zero_le _) fun a _ ha => hb a ha
  rw [runCommands_cons, runCommands_cons, exec_init he, andThen_next, andThen_next, List.append_cons,
    runCommands_append, runCommands_cons]
  exact congrArg (andThen · (runCommands is)) hblocks

/-- Each sequence of 70_reset_and_hazards.md R203, step 3, is HASH by other commands. -/
theorem runCommands_of_mem_hashSequences {s : State} {cmds : List Instr}
    (hmem : cmds ∈ hashSequences s.mlen.toNat) (he : s.err = false)
    (hb : ∀ a, a < s.mlen.toNat → s.msgBacked a = true) (ho : s.outReady 32) :
    runCommands cmds s = exec .hash s := by
  have hmacro := hashIsInitAbsorbSqueeze s he hb ho
  simp only [hashSequences, List.mem_cons, List.not_mem_nil, or_false] at hmem
  obtain rfl | rfl | rfl := hmem
  · rw [runCommands_cons, exec_hash_of_backed he hb ho, andThen_next, runCommands_nil]
  · exact hmacro
  · exact (runCommands_init_blocks he hb [.squeeze 32]).trans hmacro

/-- Settles O32: every sequence ends as HASH ends, which leaves the squeezed bytes at the front of OUT. -/
theorem launchPremisesGiveTheDigest : Obligations.LaunchPremisesGiveTheDigest := by
  intro m s he hm ho cmds hmem
  have hlen : s.mlen.toNat = m.length := hm.1
  rw [← hlen] at hmem
  rw [runCommands_of_mem_hashSequences hmem he hm.backed ho, exec_hash_of_backed he hm.backed ho, hm.msgBytes_eq,
    squeeze_32]
  refine ⟨_, rfl, he, rfl, rfl, ?_⟩
  simpa using State.outBytes_of_writeRun (bs := (absorb m).front 32) (m := s.out) rfl

/-! ### INIT and HostReset -/

/-- Settles O20: `exec_init` where no fault is recorded, `exec_of_err` where one is, and `hostReset` field by field. -/
theorem initAgainstReset : Obligations.InitAgainstReset :=
  fun _ => ⟨exec_init, fun he => exec_of_err he _, rfl⟩

/-- The fields of STATUS after a reset are those of its reset value (10_state.md R29, R36). -/
theorem hostReset_statusWord (s : State) : (hostReset s).statusWord = 0 := by
  simp only [State.statusWord, hostReset_phase, hostReset_err, hostReset_cause]
  decide

/-- Settles O56: `hostReset` writes the engine's own fields alone. -/
theorem hostResetZeroesTheEngine : Obligations.HostResetZeroesTheEngine :=
  fun s => ⟨hostReset s, rfl, fun i _ => Lanes.reg_zero i, hostReset_statusWord s, rfl, rfl, rfl, rfl, rfl, rfl,
    fun _ => rfl, fun _ => rfl, rfl, rfl, rfl, rfl⟩

end Sys2Proof.Machine
end

section
/-! The round trip of the encoding (30_encoding.md R80 to R87) and the step that runs an issued word. -/

namespace Sys2Proof

/-- Settles O2: the fields of `encode i` are the opcode and operand `i` was encoded from, with 0 where they are
reserved. -/
theorem decodeEncode : Obligations.DecodeEncode := decode_encode

/-- Settles O3: of the outcomes of decoding, only that of a command's own word is a command. -/
theorem encodeDecode : Obligations.EncodeDecode := fun _ _ h => (encode_of_decode h).symm

/-- Settles O1: each word is the encoding of its command, so `decode_encode` applies to it. -/
theorem decodeOfWrittenOutWords : Obligations.DecodeOfWrittenOutWords :=
  ⟨decode_encode .init, decode_encode .rhopi, decode_encode (.iota 5), decode_encode (.round 23),
    decode_encode (.round 255), decode_encode .absorb, decode_encode (.squeeze 32), decode_encode (.squeeze 200),
    decode_encode .hash⟩

end Sys2Proof

namespace Sys2Proof.Machine

/-- A pending issue of a word that decodes runs its command (20_memory.md R58, 30_encoding.md R82). -/
theorem step_of_issue_decoded {s : State} {W : Command} {rest : List HostOp} {i : Instr}
    (hhost : s.host = .issue W :: rest) (hd : decode W = .ok i) : step s = exec i (s.setHost rest) :=
  calc step s = issue W (s.setHost rest) := step_op hhost
    _ = exec i (s.setHost rest) := issue_of_ok hd _

/-- The word of a command, placed as a table entry, is that command's word issued first. -/
theorem withFetchWord_encode (s : State) (i : Instr) :
    s.withFetchWord 32 (encode i).toNat = s.setHost (.issue (encode i) :: s.host) := by
  rw [State.withFetchWord, tableWord_toNat]

theorem step_withFetchWord_encode (s : State) (i : Instr) :
    step (s.withFetchWord 32 (encode i).toNat) = exec i s := by
  have hhost : (s.withFetchWord 32 (encode i).toNat).host = .issue (encode i) :: s.host := by
    rw [withFetchWord_encode, State.setHost_host]
  rw [step_of_issue_decoded hhost (decode_encode i), setHost_withFetchWord]

/-- Settles O6: `step_op` for whatever is pending first; the word of a command decodes to it by `decode_encode`. -/
theorem stepRunsDecodedCommand : Obligations.StepRunsDecodedCommand :=
  ⟨fun _ _ _ => step_op, fun _ _ => rfl, fun _ _ _ _ => step_of_issue_decoded,
    fun s i => ⟨step_withFetchWord_encode s i, withFetchWord_encode s i⟩⟩

end Sys2Proof.Machine
end
